-- ==== Sys2Proof/Word.lean ====
section
/-! DEFINITION. The word of the machine: registers, addresses, locations and instructions are 16 bits wide
(spec/00_scope.md R8). -/

namespace Sys2Proof

/-- A register, an address, the content of a location or an instruction (R8, R28). -/
abbrev Word := BitVec 16

/-- A character of the keyboard or the display (R33, R35). -/
abbrev Byte := BitVec 8

end Sys2Proof
end

