-- ==== Sys2Proof/Syntax.lean ====
section
/-! DEFINITION. The instruction set: one constructor for each row of spec/opcode_table.json (Figure A.2; R71, R72, R74),
the alias rows (RET, and the six names of Table A.2) among them. Operands have the width of their fields. -/

namespace Sys2Proof

/-- A general register (R20). -/
inductive Reg where
  | r0
  | r1
  | r2
  | r3
  | r4
  | r5
  | r6
  | r7
  deriving DecidableEq, Repr

/-- The instructions. Offsets, immediates and vectors are the fields' bits (R72, R73). -/
inductive Instr where
  /-- R100 -/
  | addReg (dr sr1 sr2 : Reg)
  /-- R101 -/
  | addImm (dr sr1 : Reg) (imm5 : BitVec 5)
  /-- R102 -/
  | andReg (dr sr1 sr2 : Reg)
  /-- R103 -/
  | andImm (dr sr1 : Reg) (imm5 : BitVec 5)
  /-- R104 -/
  | not (dr sr : Reg)
  /-- R110 -/
  | br (n z p : Bool) (off : BitVec 9)
  /-- R112 -/
  | jmp (base : Reg)
  /-- R116: the name of JMP with BaseR = 111 (R79) -/
  | ret
  /-- R113 -/
  | jsr (off : BitVec 11)
  /-- R114 -/
  | jsrr (base : Reg)
  /-- R130 -/
  | ld (dr : Reg) (off : BitVec 9)
  /-- R131 -/
  | ldi (dr : Reg) (off : BitVec 9)
  /-- R132 -/
  | ldr (dr base : Reg) (off : BitVec 6)
  /-- R133 -/
  | lea (dr : Reg) (off : BitVec 9)
  /-- R140 -/
  | st (sr : Reg) (off : BitVec 9)
  /-- R141 -/
  | sti (sr : Reg) (off : BitVec 9)
  /-- R142 -/
  | str (sr base : Reg) (off : BitVec 6)
  /-- R150 -/
  | rti
  /-- R151 -/
  | trap (vect : BitVec 8)
  /-- R152: opcode 1101, whatever bits [11:0] hold (R76) -/
  | reserved (low : BitVec 12)
  /-- TRAP x20 (R92(c), R161) -/
  | getc
  /-- TRAP x21 (R162) -/
  | out
  /-- TRAP x22 (R163) -/
  | puts
  /-- TRAP x23, assembler name IN (R164) -/
  | inp
  /-- TRAP x24 (R165) -/
  | putsp
  /-- TRAP x25 (R166) -/
  | halt
  deriving DecidableEq, Repr

end Sys2Proof
end

