-- ==== Sys2Proof/WellFormed.lean ====
section
/-! DEFINITION. Which terms of Instr are the name of a word. Field widths are in the types; what is left is that a word
with two rows in the table has ONE term: xC1C0 is RET (R79) and xF020..xF025 are the six names of Table A.2 (R92). -/

namespace Sys2Proof

/-- The trap vectors that have an assembler name of their own (R57, R92(c)). -/
def namedVector (v : BitVec 8) : Bool :=
  decide (0x20#8 ≤ v) && decide (v ≤ 0x25#8)

/-- Well-formed: the term is the one the decoder gives for its word. -/
def Instr.wellFormed : Instr → Bool
  | .jmp base => base != .r7
  | .trap v => !namedVector v
  | .addReg _ _ _ => true
  | .addImm _ _ _ => true
  | .andReg _ _ _ => true
  | .andImm _ _ _ => true
  | .not _ _ => true
  | .br _ _ _ _ => true
  | .ret => true
  | .jsr _ => true
  | .jsrr _ => true
  | .ld _ _ => true
  | .ldi _ _ => true
  | .ldr _ _ _ => true
  | .lea _ _ => true
  | .st _ _ => true
  | .sti _ _ => true
  | .str _ _ _ => true
  | .rti => true
  | .reserved _ => true
  | .getc => true
  | .out => true
  | .puts => true
  | .inp => true
  | .putsp => true
  | .halt => true

end Sys2Proof
end

