-- ==== Sys2Proof/Decode.lean ====
section
/-! DEFINITION. The decoder of spec/30_encoding.md R75, total on 16-bit words, and the encoder written from the formats
of R71. -/

namespace Sys2Proof

/-- Why a word is no instruction of this spec (R77). -/
inductive DecodeReject where
  /-- the opcode is defined and a bit that Figure A.2 fixes does not hold its value -/
  | fixedBits (w : Word)
  deriving DecidableEq, Repr

/-! ## Fields (R72) -/

/-- `ir[15:12]` -/
def opcodeOf (w : Word) : BitVec 4 := w.extractLsb' 12 4

/-- The register a 3-bit field selects (R20). -/
def regOf (b : BitVec 3) : Reg :=
  match b.toNat with
  | 0 => .r0
  | 1 => .r1
  | 2 => .r2
  | 3 => .r3
  | 4 => .r4
  | 5 => .r5
  | 6 => .r6
  | _ => .r7

/-- The number of a register as a 3-bit field (R20). -/
def bitsOf : Reg → BitVec 3
  | .r0 => 0#3
  | .r1 => 1#3
  | .r2 => 2#3
  | .r3 => 3#3
  | .r4 => 4#3
  | .r5 => 5#3
  | .r6 => 6#3
  | .r7 => 7#3

/-- the register named by `ir[11:9]`: DR, or SR of a store -/
def fieldHi (w : Word) : Reg := regOf (w.extractLsb' 9 3)

/-- the register named by `ir[8:6]`: SR1, SR of NOT, BaseR -/
def fieldMid (w : Word) : Reg := regOf (w.extractLsb' 6 3)

/-- the register named by `ir[2:0]`: SR2 -/
def fieldLo (w : Word) : Reg := regOf (w.extractLsb' 0 3)

/-! ## Decoding (R75) -/

/-- ADD and AND: bit 5 selects the second operand, and the register form requires `ir[4:3] = 00`. -/
def decodeOperate (reg : Reg → Reg → Reg → Instr) (imm : Reg → Reg → BitVec 5 → Instr) (w : Word) :
    Except DecodeReject Instr :=
  if w.getLsbD 5 then .ok (imm (fieldHi w) (fieldMid w) (w.extractLsb' 0 5))
  else if w.extractLsb' 3 2 = 0#2 then .ok (reg (fieldHi w) (fieldMid w) (fieldLo w))
  else .error (.fixedBits w)

/-- JMP; RET is its name for BaseR = 111 (R79). -/
def decodeJmp (w : Word) : Except DecodeReject Instr :=
  if w.extractLsb' 9 3 = 0#3 ∧ w.extractLsb' 0 6 = 0#6 then
    if fieldMid w = .r7 then .ok .ret else .ok (.jmp (fieldMid w))
  else .error (.fixedBits w)

/-- JSR and JSRR: bit 11 selects. -/
def decodeJsr (w : Word) : Except DecodeReject Instr :=
  if w.getLsbD 11 then .ok (.jsr (w.extractLsb' 0 11))
  else if w.extractLsb' 9 2 = 0#2 ∧ w.extractLsb' 0 6 = 0#6 then .ok (.jsrr (fieldMid w))
  else .error (.fixedBits w)

/-- The instruction of a trap vector: six vectors have names (R92(c)). -/
def trapOf (v : BitVec 8) : Instr :=
  match v.toNat with
  | 0x20 => .getc
  | 0x21 => .out
  | 0x22 => .puts
  | 0x23 => .inp
  | 0x24 => .putsp
  | 0x25 => .halt
  | _ => .trap v

/-- R75, one line for each opcode of R74. -/
def decode (w : Word) : Except DecodeReject Instr :=
  match (opcodeOf w).toNat with
  | 0b0000 => .ok (.br (w.getLsbD 11) (w.getLsbD 10) (w.getLsbD 9) (w.extractLsb' 0 9))
  | 0b0001 => decodeOperate .addReg .addImm w
  | 0b0010 => .ok (.ld (fieldHi w) (w.extractLsb' 0 9))
  | 0b0011 => .ok (.st (fieldHi w) (w.extractLsb' 0 9))
  | 0b0100 => decodeJsr w
  | 0b0101 => decodeOperate .andReg .andImm w
  | 0b0110 => .ok (.ldr (fieldHi w) (fieldMid w) (w.extractLsb' 0 6))
  | 0b0111 => .ok (.str (fieldHi w) (fieldMid w) (w.extractLsb' 0 6))
  | 0b1000 => if w.extractLsb' 0 12 = 0#12 then .ok .rti else .error (.fixedBits w)
  | 0b1001 => if w.extractLsb' 0 6 = 0b111111#6 then .ok (.not (fieldHi w) (fieldMid w)) else .error (.fixedBits w)
  | 0b1010 => .ok (.ldi (fieldHi w) (w.extractLsb' 0 9))
  | 0b1011 => .ok (.sti (fieldHi w) (w.extractLsb' 0 9))
  | 0b1100 => decodeJmp w
  | 0b1101 => .ok (.reserved (w.extractLsb' 0 12))
  | 0b1110 => .ok (.lea (fieldHi w) (w.extractLsb' 0 9))
  | _ => if w.extractLsb' 8 4 = 0#4 then .ok (trapOf (w.extractLsb' 0 8)) else .error (.fixedBits w)

/-! ## Encoding (R71) -/

/-- An opcode and twelve bits. -/
def format12 (op : BitVec 4) (low : BitVec 12) : Word := op ++ low

/-- An opcode, a field at [11:9] and nine bits. -/
def format9 (op : BitVec 4) (hi : BitVec 3) (low : BitVec 9) : Word := op ++ hi ++ low

/-- An opcode, fields at [11:9] and [8:6] and six bits. -/
def format6 (op : BitVec 4) (hi mid : BitVec 3) (low : BitVec 6) : Word := op ++ hi ++ mid ++ low

/-- The three condition bits of BR at [11:9]. -/
def nzpBits (n z p : Bool) : BitVec 3 := BitVec.ofBool n ++ BitVec.ofBool z ++ BitVec.ofBool p

/-- The word of an instruction, field by field from bit 15 down, as the formats of R71 draw it. -/
def encode : Instr → Word
  | .addReg dr sr1 sr2 => format6 0b0001#4 (bitsOf dr) (bitsOf sr1) (0b000#3 ++ bitsOf sr2)
  | .addImm dr sr1 imm5 => format6 0b0001#4 (bitsOf dr) (bitsOf sr1) (0b1#1 ++ imm5)
  | .andReg dr sr1 sr2 => format6 0b0101#4 (bitsOf dr) (bitsOf sr1) (0b000#3 ++ bitsOf sr2)
  | .andImm dr sr1 imm5 => format6 0b0101#4 (bitsOf dr) (bitsOf sr1) (0b1#1 ++ imm5)
  | .not dr sr => format6 0b1001#4 (bitsOf dr) (bitsOf sr) 0b111111#6
  | .br n z p off => format9 0b0000#4 (nzpBits n z p) off
  | .jmp base => format6 0b1100#4 0b000#3 (bitsOf base) 0b000000#6
  | .ret => format6 0b1100#4 0b000#3 0b111#3 0b000000#6
  | .jsr off => format12 0b0100#4 (0b1#1 ++ off)
  | .jsrr base => format6 0b0100#4 0b000#3 (bitsOf base) 0b000000#6
  | .ld dr off => format9 0b0010#4 (bitsOf dr) off
  | .ldi dr off => format9 0b1010#4 (bitsOf dr) off
  | .ldr dr base off => format6 0b0110#4 (bitsOf dr) (bitsOf base) off
  | .lea dr off => format9 0b1110#4 (bitsOf dr) off
  | .st sr off => format9 0b0011#4 (bitsOf sr) off
  | .sti sr off => format9 0b1011#4 (bitsOf sr) off
  | .str sr base off => format6 0b0111#4 (bitsOf sr) (bitsOf base) off
  | .rti => format12 0b1000#4 0b000000000000#12
  | .trap v => format12 0b1111#4 (0b0000#4 ++ v)
  | .reserved low => format12 0b1101#4 low
  | .getc => format12 0b1111#4 (0b0000#4 ++ 0x20#8)
  | .out => format12 0b1111#4 (0b0000#4 ++ 0x21#8)
  | .puts => format12 0b1111#4 (0b0000#4 ++ 0x22#8)
  | .inp => format12 0b1111#4 (0b0000#4 ++ 0x23#8)
  | .putsp => format12 0b1111#4 (0b0000#4 ++ 0x24#8)
  | .halt => format12 0b1111#4 (0b0000#4 ++ 0x25#8)

/-! ## The host's view of the decoder -/

/-- The word whose low `nbits` bits are those of `w` and whose other bits are 0: an instruction is one word (R70). -/
def tableWord (nbits w : Nat) : Word := BitVec.ofNat 16 (w % 2 ^ nbits)

/-- What the decoder reads from a word of spec/opcode_table.json. -/
def decodeTableWord (nbits w : Nat) : Option Instr :=
  match decode (tableWord nbits w) with
  | .ok i => some i
  | .error _ => none

end Sys2Proof
end

