-- ==== Sys2Proof/Config.lean ====
section
/-! DEFINITION. The implementation parameters of spec/00_scope.md R5, one record, and the free values: constants
without a body, of which nothing can be proved but that they exist. WORD, ADDR and NREG are fixed by R5. -/

namespace Sys2Proof

/-- `EXC_PC_SAVED` (R177, D9): which PC an exception saves. OPEN in the spec. -/
inductive ExcPcSaved where
  | faulting
  | next
  deriving DecidableEq, Repr, Inhabited

/-- `JSRR_BASE_READ` (R114, D14): when JSRR reads its base register. -/
inductive JsrrBaseRead where
  | afterLink
  | beforeLink
  deriving DecidableEq, Repr

/-- `TRAP_MODE` (R160, D19). -/
inductive TrapMode where
  | vectored
  | abstract
  deriving DecidableEq, Repr

/-- The request predicate of an interrupt source over device state (R182), as data: a Boolean expression over the
bits of the five device registers (Table A.3), DDR's last accepted character among them, and over request lines that
belong to the environment. DESIGN CHOICE, safe (log 13): the spec names a predicate and no form for it; that it sees DDR,
which no load does, and not the two character streams is the model's. -/
inductive Request where
  | kbsrReady
  | kbsrEnable
  | kbdrBit (i : Fin 8)
  | dsrReady
  | ddrBit (i : Fin 8)
  | mcrBit (i : Fin 16)
  | line (n : Nat)
  | no (r : Request)
  | both (r q : Request)
  | either (r q : Request)
  deriving DecidableEq, Repr

/-- One element of `INT_SOURCES` (R182): vector, priority, request predicate. -/
structure IntSource where
  vec : BitVec 8
  prio : BitVec 3
  request : Request
  deriving DecidableEq, Repr

/-- The parameters of R5. The machine never changes them. -/
structure Config where
  vecPriv : BitVec 8
  vecIllop : BitVec 8
  excPcSaved : ExcPcSaved
  jsrrBaseRead : JsrrBaseRead
  intSources : List IntSource
  kbdInterrupt : Bool
  trapMode : TrapMode
  /-- first address of `DEVICE_RANGE` -/
  deviceLo : Word
  /-- last address of `DEVICE_RANGE` -/
  deviceHi : Word
  deriving DecidableEq, Repr

/-- The value of `EXC_PC_SAVED` in the machine that State.reset describes. R177: OPEN, no default; so no body.
Free value, safe (log 8). -/
opaque Config.openExcPcSaved : ExcPcSaved

/-- A free 16-bit value, by number of the draw (`any value` of R16). Free value, safe (log 10). -/
opaque Config.freeWord : Nat → Word

/-- A free truth value, by number of the draw. Free value, safe (log 10). -/
opaque Config.freeBool : Nat → Bool

/-- A free number, by number of the draw: a choice the spec leaves to the environment (R184(c)).
Free value, safe (log 10, 14). -/
opaque Config.freeNat : Nat → Nat

/-- A free finite text: a prompt or a message the spec does not give (U12). Free value, safe (log 10). -/
opaque Config.freeText : Nat → List Byte

/-- A free finite list of stores (address, content): what a service routine may have done to memory (R160).
Free value, safe (log 10, 20). -/
opaque Config.freeStores : Nat → List (Word × Word)

/-- The defaults of R5, and the open constant where R5 has no default. -/
def Config.standard : Config where
  vecPriv := 0x00#8
  vecIllop := 0x01#8
  excPcSaved := Config.openExcPcSaved
  jsrrBaseRead := .afterLink
  intSources := []
  kbdInterrupt := false
  trapMode := .vectored
  deviceLo := 0xFE00#16
  deviceHi := 0xFFFF#16

end Sys2Proof
end

