-- ==== Sys2Proof/Machine/State.lean ====
section
/-! DEFINITION. The state of one LC-3 (spec/10_state.md), as plain data; why a step can stop; the launch parameters and
the state after reset (R40, R210). -/

namespace Sys2Proof.Machine

/-- The privilege mode, PSR[15] (R170): 0 is Supervisor, 1 is User. -/
inductive Mode where
  | supervisor
  | user
  deriving DecidableEq, Repr

/-- The defined fields of the PSR (R29): Pr, PL, N, Z, P. The other bits read as 0 and ignore writes, so they have
no storage; the word is `Psr.toWord`. -/
structure Psr where
  mode : Mode
  pl : BitVec 3
  n : Bool
  z : Bool
  p : Bool
  deriving DecidableEq, Repr

/-- The eight general registers (R20). -/
structure Regs where
  r0 : Word
  r1 : Word
  r2 : Word
  r3 : Word
  r4 : Word
  r5 : Word
  r6 : Word
  r7 : Word
  deriving DecidableEq, Repr

/-- Memory: pairs of an address and the 16-bit content of that location (R28: the location is the only addressable
unit). Canonical form: `Memory.wf`. DEDUCED, safe (log 1). -/
abbrev Memory := List (Nat × Word)

/-- The device registers of Table A.3 (R32 to R36) and what R37 gives the devices. -/
structure Devices where
  /-- KBSR[15] -/
  kbsrReady : Bool
  /-- KBSR[14], the value last stored; it is seen only with `KBD_INTERRUPT` (R191) -/
  kbsrEnable : Bool
  /-- KBDR[7:0] -/
  kbdr : Byte
  /-- DSR[15] -/
  dsrReady : Bool
  /-- DDR[7:0]: the character last accepted; no load returns it (R35), a request predicate can see it (log 13) -/
  ddr : Byte
  mcr : Word
  /-- characters not yet typed, next first (R37(b)) -/
  keyboard : List Byte
  /-- characters displayed, oldest first (R37(b)) -/
  display : List Byte
  /-- the request lines that are raised (R37(a)) -/
  lines : List Nat
  deriving DecidableEq, Repr

/-- What the environment does at one boundary between two instructions (R196, R197, R182, R184(c)).
DESIGN CHOICE (log 11). -/
structure EnvTurn where
  /-- how many characters the keyboard delivers -/
  keys : Nat
  /-- the display becomes ready -/
  displayReady : Bool
  /-- the request lines from now on, if they change -/
  lines : Option (List Nat)
  /-- which of several sources of equal priority is taken -/
  pick : Nat
  deriving DecidableEq, Repr

/-- The services of Table A.2 that wait for a character (R161, R164). -/
inductive KeyService where
  | getc
  | inp
  deriving DecidableEq, Repr

/-- The state of the machine. -/
structure State where
  regs : Regs
  pc : Word
  psr : Psr
  savedSsp : Word
  savedUsp : Word
  mem : Memory
  dev : Devices
  /-- the call of GETC or IN that is waiting for its character, with TRAP_MODE = abstract (R160, R161, R164; log 21) -/
  waiting : Option KeyService
  /-- the environment's turns still to come; the model's own (log 11) -/
  schedule : List EnvTurn
  /-- how many free values have been drawn; the model's own (log 10) -/
  freeCount : Nat
  /-- the parameters of R5; no step changes them (log 9) -/
  cfg : Config
  deriving DecidableEq, Repr

/-- Why the machine stops. -/
inductive Fault where
  /-- Raised by `step` when MCR[15] = 0: instruction processing has stopped and no round of the instruction cycle is
  enabled (R36, R198, R216; `stuck` of R16). Safe: nothing is said of what follows (log 15). -/
  | clockStopped
  deriving DecidableEq, Repr

/-- Why the model gives a case no meaning (`refuse` of R16). -/
inductive Refusal where
  /-- Raised by `exec` for an instruction that has no meaning yet; none is left. Safe. -/
  | notModelled (mnemonic : String)
  /-- Raised by the fetch: a bit that Figure A.2 fixes does not hold its value (R77, U2). Safe. -/
  | nonCanonicalWord (w : Word)
  /-- Raised by `memRead` and `memWrite`: an address of DEVICE_RANGE with no register (R53, R54, U10). Safe. -/
  | deviceHole (a : Word)
  /-- Raised by `memWrite`: a store to DDR while DSR[15] = 0 (R195, U5). Safe. -/
  | displayBusy
  /-- Raised by `memWrite`: a store to KBDR or DSR (R54, U6). Safe. -/
  | readOnlyDevice (a : Word)
  /-- Raised by `memWrite`: a store to KBSR that sets bit 14 without `KBD_INTERRUPT` (R193). Safe. -/
  | keyboardInterruptAbsent
  /-- Raised by the abstract PUTS and PUTSP: no x0000 before the address wraps or enters device space (U11). Safe. -/
  | unterminatedString
  /-- Raised by the abstract PUTSP: a location with bits [7:0] = x00 and bits [15:8] not x00 (U11). Safe. -/
  | packedStringGap
  deriving DecidableEq, Repr

/-- What one step or one instruction answers. -/
abbrev Result := Host.Outcome State Fault Refusal

/-- The launch parameters `INIT_*` of R5 and R40 (D18), with the parameters of R5 and the environment of the run. -/
structure Launch where
  regs : Regs
  pc : Word
  psr : Psr
  savedSsp : Word
  savedUsp : Word
  mem : Memory
  kbdr : Byte
  dsrReady : Bool
  keyboard : List Byte
  schedule : List EnvTurn
  cfg : Config
  deriving DecidableEq, Repr

/-- The state at the start of a run (R40, R210): the launch parameters, and what the spec fixes: MCR = x8000,
KBSR[15] = 0, KBSR[14] = 0, no request line raised, no call waiting. DDR = x00 and an empty output stream: log 7, 11.
DESIGN CHOICE (log 26): "no interrupt pending" (R40, R210) is no raised line and no request of the keyboard; a source of
INT_SOURCES whose predicate holds of the launch devices (DSR[15] = 1, a line that is not raised) requests at once (R183). -/
def State.launch (l : Launch) : State where
  regs := l.regs
  pc := l.pc
  psr := l.psr
  savedSsp := l.savedSsp
  savedUsp := l.savedUsp
  mem := l.mem
  dev := {
    kbsrReady := false, kbsrEnable := false, kbdr := l.kbdr, dsrReady := l.dsrReady, ddr := 0#8,
    mcr := 0x8000#16, keyboard := l.keyboard, display := [], lines := [] }
  waiting := none
  schedule := l.schedule
  freeCount := 0
  cfg := l.cfg

/-- The launch parameters of `State.reset`. The spec gives none of them (R40); DESIGN CHOICE, unsafe
(log 2 to 7): those of the start state of spec/95_test_vectors.md section 3 where it names one, else zero. -/
def Launch.standard : Launch where
  regs := { r0 := 0#16, r1 := 0#16, r2 := 0#16, r3 := 0#16, r4 := 0#16, r5 := 0#16, r6 := 0#16, r7 := 0#16 }
  pc := 0x3000#16
  psr := { mode := .user, pl := 0#3, n := false, z := true, p := false }
  savedSsp := 0x3000#16
  savedUsp := 0#16
  mem := []
  kbdr := 0#8
  dsrReady := false
  keyboard := []
  schedule := []
  cfg := Config.standard

/-- The machine right after reset. -/
def State.reset : State := State.launch Launch.standard

end Sys2Proof.Machine
end

