-- ==== Sys2Proof/Machine/Flags.lean ====
section
/-! DEFINITION. The condition codes (R12, R27) and the PSR as a word (R29). -/

namespace Sys2Proof.Machine

/-- The word of the PSR: `Pr ++ 0000 ++ PL ++ 00000 ++ N ++ Z ++ P` (R29, D6). -/
def Psr.toWord (s : Psr) : Word :=
  BitVec.ofBool (decide (s.mode = .user)) ++ 0b0000#4 ++ s.pl ++ 0b00000#5 ++
    BitVec.ofBool s.n ++ BitVec.ofBool s.z ++ BitVec.ofBool s.p

/-- The PSR a word loads: bits 15, [10:8], 2, 1, 0; the others are dropped (R150, D24). -/
def Psr.ofWord (w : Word) : Psr where
  mode := if w.getLsbD 15 then .user else .supervisor
  pl := w.extractLsb' 8 3
  n := w.getLsbD 2
  z := w.getLsbD 1
  p := w.getLsbD 0

/-- `setcc(v)` (R12): N, Z, P from a value taken as a 2's complement integer; one becomes 1, the others 0 (D5). -/
def Psr.setcc (s : Psr) (v : Word) : Psr :=
  { s with n := v.msb, z := decide (v = 0#16), p := !v.msb && decide (v ≠ 0#16) }

/-- BR's test (R110): some tested condition code is 1. -/
def Psr.tests (s : Psr) (n z p : Bool) : Bool := (n && s.n) || (z && s.z) || (p && s.p)

end Sys2Proof.Machine
end

