-- ==== Sys2Proof/Machine/Memory.lean ====
section
/-! DEFINITION. The ordinary memory as a list in one canonical form: addresses strictly rising, no location listed with
the content an unlisted location has (R28, R59). Device registers are not here: `memRead`, `memWrite`. -/

namespace Sys2Proof.Machine

/-- What a location reads as that nothing has written and the launch image does not list (INIT_MEM is open, R40).
DESIGN CHOICE, unsafe (log 2). -/
def Memory.unlisted : Word := 0x0000#16

/-- The content of a location. -/
def Memory.readAt : Memory → Nat → Word
  | [], _ => Memory.unlisted
  | (k, v) :: rest, a => if k = a then v else Memory.readAt rest a

/-- The list without an entry for the location. -/
def Memory.erase (m : Memory) (a : Nat) : Memory := m.filter fun e => e.1 != a

/-- An entry put in at its place. -/
def Memory.insert : Memory → Nat → Word → Memory
  | [], a, v => [(a, v)]
  | (k, u) :: rest, a, v => if a < k then (a, v) :: (k, u) :: rest else (k, u) :: Memory.insert rest a v

/-- The content of the location at a 16-bit address. -/
def Memory.read (m : Memory) (a : Word) : Word := Memory.readAt m a.toNat

/-- The memory after a location was given a content. -/
def Memory.write (m : Memory) (a : Word) (v : Word) : Memory :=
  if v = Memory.unlisted then Memory.erase m a.toNat
  else Memory.insert (Memory.erase m a.toNat) a.toNat v

/-- Stores made one after the other, the first of the list first. -/
def Memory.writeAll (m : Memory) (stores : List (Word × Word)) : Memory :=
  stores.foldl (fun m e => Memory.write m e.1 e.2) m

/-- Every address of the list is at least `lo` and they rise strictly; every address is one of the 65,536; no content
is the unlisted one. -/
def Memory.wfFrom : Nat → Memory → Bool
  | _, [] => true
  | lo, (k, v) :: rest =>
    decide (lo ≤ k) && decide (k < 65536) && decide (v ≠ Memory.unlisted) && Memory.wfFrom (k + 1) rest

/-- The canonical form. -/
def Memory.wf (m : Memory) : Bool := Memory.wfFrom 0 m

end Sys2Proof.Machine
end

