-- ==== Sys2Proof/Machine/Registers.lean ====
section
/-! DEFINITION. The one place where registers, the PC, the PSR, one location and the devices are read and updated
(R13, R20 to R24). -/

namespace Sys2Proof.Machine

/-- The content of a register. -/
def Regs.get (g : Regs) : Reg → Word
  | .r0 => g.r0
  | .r1 => g.r1
  | .r2 => g.r2
  | .r3 => g.r3
  | .r4 => g.r4
  | .r5 => g.r5
  | .r6 => g.r6
  | .r7 => g.r7

/-- The registers with one of them written. No register is hard-wired (R20). -/
def Regs.set (g : Regs) (r : Reg) (v : Word) : Regs :=
  match r with
  | .r0 => { g with r0 := v }
  | .r1 => { g with r1 := v }
  | .r2 => { g with r2 := v }
  | .r3 => { g with r3 := v }
  | .r4 => { g with r4 := v }
  | .r5 => { g with r5 := v }
  | .r6 => { g with r6 := v }
  | .r7 => { g with r7 := v }

/-- `x[i]` (R13). -/
def State.reg (s : State) (r : Reg) : Word := s.regs.get r

/-- `x[i] <- v` (R13). -/
def State.setReg (s : State) (r : Reg) (v : Word) : State := { s with regs := s.regs.set r v }

/-- `pc <- t` (R13). -/
def State.setPc (s : State) (t : Word) : State := { s with pc := t }

/-- The PSR replaced. -/
def State.setPsr (s : State) (p : Psr) : State := { s with psr := p }

/-- `setcc(v)` (R12). -/
def State.setcc (s : State) (v : Word) : State := s.setPsr (s.psr.setcc v)

/-- `x[DR] <- v; setcc(v)`: the end of the seven instructions of R27. -/
def State.setResult (s : State) (dr : Reg) (v : Word) : State := (s.setReg dr v).setcc v

/-- `M[a]`: the content of an ordinary location (R53, last line). -/
def State.peek (s : State) (a : Word) : Word := Memory.read s.mem a

/-- `M[a] <- v` (R54, last line). -/
def State.poke (s : State) (a : Word) (v : Word) : State := { s with mem := Memory.write s.mem a v }

/-- The devices replaced. -/
def State.setDev (s : State) (d : Devices) : State := { s with dev := d }

/-- `Saved_SSP <- v` (R31). -/
def State.setSavedSsp (s : State) (v : Word) : State := { s with savedSsp := v }

/-- `Saved_USP <- v` (R31). -/
def State.setSavedUsp (s : State) (v : Word) : State := { s with savedUsp := v }

/-- The call that is waiting for a character, or none (log 21). -/
def State.setWaiting (s : State) (w : Option KeyService) : State := { s with waiting := w }

/-- `n` free values have been drawn (log 10). -/
def State.drawn (s : State) (n : Nat) : State := { s with freeCount := s.freeCount + n }

end Sys2Proof.Machine
end

