-- ==== Sys2Proof/Machine/Operands.lean ====
section
/-! DEFINITION. The operand forms (R73, R134): extended immediates and the addresses they make. `s.pc` is the
incremented PC (R14). All sums are modulo 2^16 (R8, D4). -/

namespace Sys2Proof.Machine

/-- `sext_16` (R9). -/
def sext16 {n : Nat} (v : BitVec n) : Word := v.signExtend 16

/-- `zext_16` (R10). -/
def zext16 {n : Nat} (v : BitVec n) : Word := v.setWidth 16

/-- PC-relative: `pc + sext_16(offset)`, for PCoffset9 and PCoffset11 (R134, R113). -/
def pcRelative {n : Nat} (s : State) (off : BitVec n) : Word := s.pc + sext16 off

/-- Base+offset: `x[BaseR] + sext_16(offset6)` (R134). -/
def baseOffset (s : State) (base : Reg) (off : BitVec 6) : Word := s.reg base + sext16 off

/-- The address of an entry of the Trap Vector Table (R57, R151). -/
def trapEntry (v : BitVec 8) : Word := zext16 v

/-- The address of an entry of the interrupt vector table (R57, R176, D10). -/
def vectorEntry (v : BitVec 8) : Word := 0x0100#16 + zext16 v

end Sys2Proof.Machine
end

