-- ==== Sys2Proof/Machine/Ops.lean ====
section
/-! DEFINITION. The shared operations: `MemRead` and `MemWrite` with the device registers (R53, R54, R190 to R198), the
fetch (R25), the initiation sequence of interrupts and exceptions (R176) and the return from it (R150). -/

namespace Sys2Proof.Machine

/-! ## Device addresses (Table A.3, R57) -/

def kbsrAddr : Word := 0xFE00#16
def kbdrAddr : Word := 0xFE02#16
def dsrAddr : Word := 0xFE04#16
def ddrAddr : Word := 0xFE06#16
def mcrAddr : Word := 0xFFFE#16

/-- One of the five addresses of Table A.3. -/
def isDeviceRegister (a : Word) : Bool :=
  a == kbsrAddr || a == kbdrAddr || a == dsrAddr || a == ddrAddr || a == mcrAddr

/-- An address of DEVICE_RANGE (R5, R57). -/
def inDeviceRange (c : Config) (a : Word) : Bool := decide (c.deviceLo ≤ a) && decide (a ≤ c.deviceHi)

/-- An ordinary location: neither a device register nor in DEVICE_RANGE. -/
def State.ordinary (s : State) (a : Word) : Bool := !isDeviceRegister a && !inDeviceRange s.cfg a

/-! ## Device registers (R190 to R198) -/

/-- KBSR as a load sees it (R191). -/
def kbsrWord (s : State) : Word :=
  BitVec.ofBool s.dev.kbsrReady ++ BitVec.ofBool (s.dev.kbsrEnable && s.cfg.kbdInterrupt) ++ 0#14

/-- KBDR as a load sees it (R192). -/
def kbdrWord (s : State) : Word := 0x00#8 ++ s.dev.kbdr

/-- DSR as a load sees it (R194). -/
def dsrWord (s : State) : Word := BitVec.ofBool s.dev.dsrReady ++ 0#15

/-- `MCR[15]`, the clock enable bit (R36). -/
def State.clockEnabled (s : State) : Bool := s.dev.mcr.getLsbD 15

/-- The clock enable bit set: what starting the processor takes (R211). -/
def enableClock (s : State) : State := s.setDev { s.dev with mcr := s.dev.mcr ||| 0x8000#16 }

/-- `display_write(b)` (R195). -/
def displayWrite (b : Byte) (s : State) : Except Refusal State :=
  if s.dev.dsrReady then
    .ok (s.setDev { s.dev with ddr := b, dsrReady := false, display := s.dev.display ++ [b] })
  else .error .displayBusy

/-- `keyboard_status_write(v)` (R193). -/
def keyboardStatusWrite (v : Word) (s : State) : Except Refusal State :=
  if s.cfg.kbdInterrupt then .ok (s.setDev { s.dev with kbsrEnable := v.getLsbD 14 })
  else if v.getLsbD 14 then .error .keyboardInterruptAbsent
  else .ok s

/-! ## Memory primitives -/

/-- `MemRead(A, 1)` (R53): the value and the state after its side effect. -/
def memRead (a : Word) (s : State) : Except Refusal (Word × State) :=
  if a = kbsrAddr then .ok (kbsrWord s, s)
  else if a = kbdrAddr then .ok (kbdrWord s, s.setDev { s.dev with kbsrReady := false })
  else if a = dsrAddr then .ok (dsrWord s, s)
  else if a = ddrAddr then .ok (Config.freeWord s.freeCount, s.drawn 1)
  else if a = mcrAddr then .ok (s.dev.mcr, s)
  else if inDeviceRange s.cfg a then .error (.deviceHole a)
  else .ok (s.peek a, s)

/-- `MemWrite(A, 1, v)` (R54). -/
def memWrite (a : Word) (v : Word) (s : State) : Except Refusal State :=
  if a = ddrAddr then displayWrite (v.extractLsb' 0 8) s
  else if a = mcrAddr then .ok (s.setDev { s.dev with mcr := v })
  else if a = kbsrAddr then keyboardStatusWrite v s
  else if a = kbdrAddr ∨ a = dsrAddr then .error (.readOnlyDevice a)
  else if inDeviceRange s.cfg a then .error (.deviceHole a)
  else .ok (s.poke a v)

/-- Go on with the value read, or refuse. -/
def withRead (a : Word) (s : State) (k : Word → State → Result) : Result :=
  match memRead a s with
  | .ok p => k p.1 p.2
  | .error r => .refused r

/-- Go on after the write, or refuse. -/
def withWrite (a : Word) (v : Word) (s : State) (k : State → Result) : Result :=
  match memWrite a v s with
  | .ok t => k t
  | .error r => .refused r

/-! ## Fetch (R25 steps 1 to 4) -/

/-- Read the word at the PC, advance the PC, decode. -/
def fetch (s : State) : Except Refusal (Instr × State) :=
  match memRead s.pc s with
  | .error r => .error r
  | .ok p =>
    match decode p.1 with
    | .error (.fixedBits w) => .error (.nonCanonicalWord w)
    | .ok i => .ok (i, p.2.setPc (s.pc + 1#16))

/-! ## Interrupts and exceptions: entry and return -/

/-- R6 becomes the Supervisor Stack Pointer when the processor comes from User mode (R176, D7). -/
def switchToSupervisorStack (s : State) : State :=
  match s.psr.mode with
  | .user => (s.setSavedUsp (s.reg .r6)).setReg .r6 s.savedSsp
  | .supervisor => s

/-- `PSR[15] <- 0; if prio != none: PSR[10:8] <- prio` (R176). -/
def enterSupervisor (prio : Option (BitVec 3)) (s : State) : State :=
  s.setPsr { s.psr with mode := .supervisor, pl := prio.getD s.psr.pl }

/-- `x[6] <- x[6] - 1; MemWrite(x[6], 1, v)` (R176). -/
def push (v : Word) (s : State) (k : State → Result) : Result :=
  withWrite (s.reg .r6 - 1#16) v (s.setReg .r6 (s.reg .r6 - 1#16)) k

/-- `MemRead(x[6], 1)` and then `x[6] <- x[6] + 1` (R150). -/
def pop (s : State) (k : Word → State → Result) : Result :=
  withRead (s.reg .r6) s fun v t => k v (t.setReg .r6 (t.reg .r6 + 1#16))

/-- `Initiate(vec, saved_pc, prio)` (R176), the same for interrupts and exceptions. -/
def initiate (vec : BitVec 8) (savedPc : Word) (prio : Option (BitVec 3)) (s : State) : Result :=
  push s.psr.toWord (enterSupervisor prio (switchToSupervisorStack s)) fun s1 =>
    push savedPc s1 fun s2 => withRead (vectorEntry vec) s2 fun v s3 => .next (s3.setPc v)

/-- The PC an exception saves (R177, D9): `pc0` is the incremented PC minus 1 (R14). -/
def exceptionPc (s : State) : Word :=
  match s.cfg.excPcSaved with
  | .faulting => s.pc - 1#16
  | .next => s.pc

/-- `raise` (R15): an exception's initiation, which changes no priority level. -/
def raise (vec : BitVec 8) (s : State) : Result := initiate vec (exceptionPc s) none s

/-- When the PSR restored is a User one, the stack pointers are exchanged (R150, D7). -/
def leaveSupervisorStack (s : State) : State :=
  match s.psr.mode with
  | .user => (s.setSavedSsp (s.reg .r6)).setReg .r6 s.savedUsp
  | .supervisor => s

/-- RTI's Supervisor branch (R150): the PC, then the PSR, then the stack pointer. -/
def returnFromInterrupt (s : State) : Result :=
  pop s fun t s1 => pop (s1.setPc t) fun w s2 => .next (leaveSupervisorStack (s2.setPsr (Psr.ofWord w)))

end Sys2Proof.Machine
end

