-- ==== Sys2Proof/Machine/Load.lean ====
section
/-! DEFINITION. LD, LDI, LDR, LEA (spec/42_load.md). -/

namespace Sys2Proof.Machine

/-- The common end of the loads: read, write DR, set the condition codes. -/
def loadFrom (ea : Word) (dr : Reg) (s : State) : Result := withRead ea s fun v t => .next (t.setResult dr v)

/-- R130 -/
def execLd (dr : Reg) (off : BitVec 9) (s : State) : Result := loadFrom (pcRelative s off) dr s

/-- R131: the pointer first, then the data. -/
def execLdi (dr : Reg) (off : BitVec 9) (s : State) : Result :=
  withRead (pcRelative s off) s fun ea t => loadFrom ea dr t

/-- R132 -/
def execLdr (dr base : Reg) (off : BitVec 6) (s : State) : Result := loadFrom (baseOffset s base off) dr s

/-- R133: the address itself; no memory access. -/
def execLea (dr : Reg) (off : BitVec 9) (s : State) : Result := .next (s.setResult dr (pcRelative s off))

end Sys2Proof.Machine
end

