-- ==== Sys2Proof/Machine/Operate.lean ====
section
/-! DEFINITION. ADD, AND, NOT (spec/40_operate.md). -/

namespace Sys2Proof.Machine

/-- R100 -/
def execAddReg (dr sr1 sr2 : Reg) (s : State) : Result := .next (s.setResult dr (s.reg sr1 + s.reg sr2))

/-- R101 -/
def execAddImm (dr sr1 : Reg) (imm5 : BitVec 5) (s : State) : Result :=
  .next (s.setResult dr (s.reg sr1 + sext16 imm5))

/-- R102 -/
def execAndReg (dr sr1 sr2 : Reg) (s : State) : Result := .next (s.setResult dr (s.reg sr1 &&& s.reg sr2))

/-- R103 -/
def execAndImm (dr sr1 : Reg) (imm5 : BitVec 5) (s : State) : Result :=
  .next (s.setResult dr (s.reg sr1 &&& sext16 imm5))

/-- R104 -/
def execNot (dr sr : Reg) (s : State) : Result := .next (s.setResult dr (~~~s.reg sr))

end Sys2Proof.Machine
end

