-- ==== Sys2Proof/Machine/Store.lean ====
section
/-! DEFINITION. ST, STI, STR (spec/43_store.md). -/

namespace Sys2Proof.Machine

/-- The common end of the stores: the whole register is written (R143). -/
def storeTo (ea : Word) (v : Word) (s : State) : Result := withWrite ea v s fun t => .next t

/-- R140 -/
def execSt (sr : Reg) (off : BitVec 9) (s : State) : Result := storeTo (pcRelative s off) (s.reg sr) s

/-- R141: the pointer is read first, then the write is made. -/
def execSti (sr : Reg) (off : BitVec 9) (s : State) : Result :=
  withRead (pcRelative s off) s fun ea t => storeTo ea (t.reg sr) t

/-- R142 -/
def execStr (sr base : Reg) (off : BitVec 6) (s : State) : Result := storeTo (baseOffset s base off) (s.reg sr) s

end Sys2Proof.Machine
end

