-- ==== Sys2Proof/Machine/Control.lean ====
section
/-! DEFINITION. BR, JMP, RET, JSR, JSRR (spec/41_control.md). -/

namespace Sys2Proof.Machine

/-- R110 -/
def execBr (n z p : Bool) (off : BitVec 9) (s : State) : Result :=
  if s.psr.tests n z p then .next (s.setPc (pcRelative s off)) else .next s

/-- R112 -/
def execJmp (base : Reg) (s : State) : Result := .next (s.setPc (s.reg base))

/-- R116 -/
def execRet (s : State) : Result := .next (s.setPc (s.reg .r7))

/-- The linkage of JSR, JSRR and TRAP (R115): `x[7] <- pc`. -/
def link (s : State) : State := s.setReg .r7 s.pc

/-- R113 -/
def execJsr (off : BitVec 11) (s : State) : Result := .next ((link s).setPc (pcRelative s off))

/-- R114: the base register is read after the link is written, or before it, by JSRR_BASE_READ (D14). -/
def execJsrr (base : Reg) (s : State) : Result :=
  match s.cfg.jsrrBaseRead with
  | .afterLink => .next ((link s).setPc ((link s).reg base))
  | .beforeLink => .next ((link s).setPc (s.reg base))

end Sys2Proof.Machine
end

