-- ==== Sys2Proof/Machine/TrapServices.lean ====
section
/-! DEFINITION. The contracts of the six service routines (spec/45_trap_services.md), which TRAP performs in one step with
TRAP_MODE = abstract. Each takes the state after `x[7] <- pc` (R160). What a contract does not name is a free
value afterwards (R160, R167, U16). -/

namespace Sys2Proof.Machine

/-- Everything R160 and R167 leave unspecified, drawn free: R0 to R6, N, Z, P, the priority level, the stack holding
registers, KBSR, KBDR, DSR, DDR, MCR[14:0] and memory. R7 (the link), the privilege mode (R167: the caller's) and MCR[15]
(the routine runs to its return, so it is not stopped) stay. Log 20. -/
def afterService (s : State) : State :=
  let k := s.freeCount
  { s with
    regs := {
      r0 := Config.freeWord k, r1 := Config.freeWord (k + 1), r2 := Config.freeWord (k + 2),
      r3 := Config.freeWord (k + 3), r4 := Config.freeWord (k + 4), r5 := Config.freeWord (k + 5),
      r6 := Config.freeWord (k + 6), r7 := s.regs.r7 }
    psr := { s.psr with
      pl := (Config.freeWord (k + 11)).extractLsb' 0 3
      n := Config.freeBool k
      z := Config.freeBool (k + 1)
      p := Config.freeBool (k + 2) }
    savedSsp := Config.freeWord (k + 7)
    savedUsp := Config.freeWord (k + 8)
    mem := Memory.writeAll s.mem (Config.freeStores k)
    dev := { s.dev with
      kbsrReady := Config.freeBool (k + 3)
      kbsrEnable := Config.freeBool (k + 4) && s.cfg.kbdInterrupt
      kbdr := (Config.freeWord (k + 12)).extractLsb' 0 8
      dsrReady := Config.freeBool (k + 5)
      ddr := (Config.freeWord (k + 9)).extractLsb' 0 8
      mcr := (s.dev.mcr &&& 0x8000#16) ||| (Config.freeWord (k + 10) &&& 0x7FFF#16) }
    freeCount := k + 13 }

/-- `pc <- x[7]`: the return of a service (R160). -/
def serviceReturn (s : State) : Result := .next (s.setPc (s.reg .r7))

/-- Characters appended to the display's output stream. -/
def State.emit (s : State) (text : List Byte) : State :=
  s.setDev { s.dev with display := s.dev.display ++ text }

/-- A text the spec does not give (U12), appended. -/
def State.emitFree (s : State) : State := (s.emit (Config.freeText s.freeCount)).drawn 1

/-- KBSR[15] cleared: the character of KBDR is consumed (R161, R192). -/
def consumeKey (s : State) : State := s.setDev { s.dev with kbsrReady := false }

/-- What a service shows when it has its character: GETC nothing (R161), IN the echo, and after it a text that is free
(R164, U12). -/
def State.echo (s : State) : KeyService → Byte → State
  | .getc, _ => s
  | .inp, c => (s.emit [c]).emitFree

/-- The end of GETC and IN: the character is consumed and returned in R0, its high byte clear. -/
def deliverTo (k : KeyService) (s : State) : Result :=
  serviceReturn (((afterService ((consumeKey s).echo k s.dev.kbdr)).setReg .r0 (zext16 s.dev.kbdr)).setWaiting none)

/-- GETC and IN wait until KBSR[15] = 1 (R161, R164). Without a character the call goes on waiting and has not returned:
the next round resumes it (log 21). If no character ever comes it never returns. -/
def awaitKey (k : KeyService) (s : State) : Result :=
  if s.dev.kbsrReady then deliverTo k s else .next (s.setWaiting (some k))

/-- GETC (R161). -/
def getcService (s : State) : Result := awaitKey .getc s

/-- OUT (R162). -/
def outService (s : State) : Result :=
  serviceReturn (afterService (s.emit [(s.reg .r0).extractLsb' 0 8]))

/-- The contents of the locations from `a` up to the first x0000, or none if device space or the end of the address
space comes first (R163, U11). The number is how many locations there are from `a` to the end. -/
def stringWords (s : State) : Nat → Word → Option (List Word)
  | 0, _ => none
  | n + 1, a =>
    if s.ordinary a then
      if s.peek a = 0#16 then some []
      else (stringWords s n (a + 1#16)).map (s.peek a :: ·)
    else none

/-- The string R0 points to. -/
def stringAtR0 (s : State) : Option (List Word) := stringWords s (65536 - (s.reg .r0).toNat) (s.reg .r0)

/-- PUTS (R163): the low byte of each location. -/
def putsService (s : State) : Result :=
  match stringAtR0 s with
  | none => .refused .unterminatedString
  | some ws => serviceReturn (afterService (s.emit (ws.map (·.extractLsb' 0 8))))

/-- IN (R164): a prompt, once; then it waits. -/
def inService (s : State) : Result := awaitKey .inp s.emitFree

/-- The one or two characters of a location of a packed string (R165). -/
def packedChars (w : Word) : List Byte :=
  if w.extractLsb' 8 8 = 0#8 then [w.extractLsb' 0 8] else [w.extractLsb' 0 8, w.extractLsb' 8 8]

/-- PUTSP (R165). A location with a low byte x00 and a high byte that is not is refused (U11). -/
def putspService (s : State) : Result :=
  match stringAtR0 s with
  | none => .refused .unterminatedString
  | some ws =>
    if ws.any (fun w => w.extractLsb' 0 8 == 0#8) then .refused .packedStringGap
    else serviceReturn (afterService (s.emit (ws.flatMap packedChars)))

/-- HALT (R166): a message, and a store to the MCR with bit 15 clear; no return, and the final PC is free. -/
def haltService (s : State) : Result :=
  let t := afterService s.emitFree
  .next (((t.setDev { t.dev with mcr := t.dev.mcr &&& 0x7FFF#16 }).setPc (Config.freeWord t.freeCount)).drawn 1)

end Sys2Proof.Machine
end

