-- ==== Sys2Proof/Machine/System.lean ====
section
/-! DEFINITION. RTI, TRAP and its six named vectors, and the reserved opcode (spec/44_system.md, R160). -/

namespace Sys2Proof.Machine

/-- R150, R174: in User mode the privilege mode violation. -/
def execRti (s : State) : Result :=
  match s.psr.mode with
  | .supervisor => returnFromInterrupt s
  | .user => raise s.cfg.vecPriv s

/-- R151: the link, then the PC from the Trap Vector Table. -/
def trapVectored (v : BitVec 8) (s : State) : Result :=
  withRead (trapEntry v) (link s) fun t s1 => .next (s1.setPc t)

/-- TRAP by TRAP_MODE (R151, R160): with `abstract` the six vectors of Table A.2 are performed as one step. -/
def trapCall (v : BitVec 8) (s : State) : Result :=
  match s.cfg.trapMode with
  | .vectored => trapVectored v s
  | .abstract =>
    match v.toNat with
    | 0x20 => getcService (link s)
    | 0x21 => outService (link s)
    | 0x22 => putsService (link s)
    | 0x23 => inService (link s)
    | 0x24 => putspService (link s)
    | 0x25 => haltService (link s)
    | _ => trapVectored v s

/-- R151 -/
def execTrap (v : BitVec 8) (s : State) : Result := trapCall v s

/-- `TRAP x20` (R161) -/
def execGetc (s : State) : Result := trapCall 0x20#8 s

/-- `TRAP x21` (R162) -/
def execOut (s : State) : Result := trapCall 0x21#8 s

/-- `TRAP x22` (R163) -/
def execPuts (s : State) : Result := trapCall 0x22#8 s

/-- `TRAP x23` (R164) -/
def execInp (s : State) : Result := trapCall 0x23#8 s

/-- `TRAP x24` (R165) -/
def execPutsp (s : State) : Result := trapCall 0x24#8 s

/-- `TRAP x25` (R166) -/
def execHalt (s : State) : Result := trapCall 0x25#8 s

/-- R152, R175: the illegal opcode exception; bits [11:0] are not examined. -/
def execReserved (_low : BitVec 12) (s : State) : Result := raise s.cfg.vecIllop s

end Sys2Proof.Machine
end

