-- ==== Sys2Proof/Machine/Environment.lean ====
section
/-! DEFINITION. The environment agents between two instructions (R196, R197) and step 0 of the instruction cycle, the
acceptance of an interrupt (R25, R182 to R184). -/

namespace Sys2Proof.Machine

/-! ## The keyboard, the display and the request lines -/

/-- The keyboard delivers its next character, if it has one; an unread one is overrun (R197). -/
def deliverKey (d : Devices) : Devices :=
  match d.keyboard with
  | [] => d
  | c :: rest => { d with keyboard := rest, kbdr := c, kbsrReady := true }

/-- Several deliveries. -/
def deliverKeys : Nat → Devices → Devices
  | 0, d => d
  | n + 1, d => deliverKeys n (deliverKey d)

/-- What one turn does to the devices. -/
def applyTurn (t : EnvTurn) (d : Devices) : Devices :=
  let d1 := deliverKeys t.keys d
  { d1 with dsrReady := d1.dsrReady || t.displayReady, lines := t.lines.getD d1.lines }

/-- The turn once the schedule is used up: the display becomes ready (it does so in finite time, R196), the keyboard is
silent (it need never deliver, R197), the lines stay. DESIGN CHOICE (log 11). Which of several sources of equal priority
is taken is not fixed (R184(c)): a free value, by number of the draw (log 14). -/
def lastingTurn (k : Nat) : EnvTurn where
  keys := 0
  displayReady := true
  lines := none
  pick := Config.freeNat k

/-- The environment's turn before this round. -/
def State.turn (s : State) : EnvTurn := s.schedule.headD (lastingTurn s.freeCount)

/-- The state after the environment's turn. Every turn takes one draw, so that no two lasting turns share theirs. -/
def State.afterTurn (s : State) : State :=
  { s with dev := applyTurn s.turn s.dev, schedule := s.schedule.tail, freeCount := s.freeCount + 1 }

/-! ## Acceptance of an interrupt -/

/-- Whether a request predicate holds (R182, R183: level-sensitive). KBSR[14] is seen as a load sees it (R191). -/
def requestHolds (s : State) : Request → Bool
  | .kbsrReady => s.dev.kbsrReady
  | .kbsrEnable => s.dev.kbsrEnable && s.cfg.kbdInterrupt
  | .kbdrBit i => s.dev.kbdr.getLsbD i.val
  | .dsrReady => s.dev.dsrReady
  | .ddrBit i => s.dev.ddr.getLsbD i.val
  | .mcrBit i => s.dev.mcr.getLsbD i.val
  | .line n => s.dev.lines.contains n
  | .no r => !requestHolds s r
  | .both r q => requestHolds s r && requestHolds s q
  | .either r q => requestHolds s r || requestHolds s q

/-- The keyboard as an interrupt source (R182): vector x80, priority 4, KBSR[15] = 1 and KBSR[14] = 1. -/
def keyboardSource : IntSource where
  vec := 0x80#8
  prio := 4#3
  request := .both .kbsrReady .kbsrEnable

/-- INT_SOURCES, with the keyboard exactly when KBD_INTERRUPT is true (R182). -/
def sources (c : Config) : List IntSource :=
  if c.kbdInterrupt then keyboardSource :: c.intSources else c.intSources

/-- The sources that request at a priority above that of the running program (R183). -/
def State.candidates (s : State) : List IntSource :=
  (sources s.cfg).filter fun src => requestHolds s src.request && decide (s.psr.pl < src.prio)

/-- The candidates of the highest priority (R184(c)). -/
def State.highest (s : State) : List IntSource :=
  s.candidates.filter fun src => s.candidates.all fun other => decide (other.prio ≤ src.prio)

/-- One of a list by a number; there is nothing to choose where there is one or none. -/
def choose : List IntSource → Nat → Option IntSource
  | [], _ => none
  | [src], _ => some src
  | src :: other :: rest, pick => (src :: other :: rest)[pick % (rest.length + 2)]?

/-- The source accepted, if any; among equals the environment's choice (R184(c), log 14). -/
def State.accepted (s : State) (pick : Nat) : Option IntSource := choose s.highest pick

/-- What opens a round of R25: the environment's turn and the interrupt accepted after it. -/
def openRound (s : State) : Option IntSource × State := (s.afterTurn.accepted s.turn.pick, s.afterTurn)

/-- The initiation of an accepted interrupt: the PC of the instruction not yet fetched (R177, R183). -/
def acceptInterrupt (src : IntSource) (s : State) : Result := initiate src.vec s.pc (some src.prio) s

end Sys2Proof.Machine
end

