-- ==== Sys2Proof/Machine/Step.lean ====
section
/-! DEFINITION. One round of the instruction cycle (spec/10_state.md R25). -/

namespace Sys2Proof.Machine

/-- R25 steps 1 to 4: fetch, decode, perform. -/
def runInstruction (s : State) : Host.Outcome State Fault Refusal :=
  match fetch s with
  | .error r => .refused r
  | .ok p => exec p.1 p.2

/-- One round: the environment's turn, then the call that is waiting for a character (it is one step of the machine,
R160, so no interrupt comes between: log 21), or an accepted interrupt, or one instruction. With MCR[15] = 0 there is no
round (R36, R198). -/
def step (s : State) : Host.Outcome State Fault Refusal :=
  if s.clockEnabled then
    match s.waiting with
    | some k => awaitKey k s.afterTurn
    | none =>
      match openRound s with
      | (some src, t) => acceptInterrupt src t
      | (none, t) => runInstruction t
  else .fault .clockStopped

/-- `s` with the word of one instruction in the location the PC names, the clock enabled and no call waiting, so that the
next step fetches and runs it (where no interrupt is accepted first and the PC is an ordinary location). -/
def State.withFetchWord (s : State) (nbits w : Nat) : State :=
  (enableClock (s.poke s.pc (tableWord nbits w))).setWaiting none

end Sys2Proof.Machine
end

