-- ==== Sys2Proof/Safety.lean ====
section
/-! DEFINITION. What counts as a safe run, the invariant of the machine, and the words the statements use: what an
instruction leaves unchanged (its frame), when an access is answered, what an entry leaves. -/

namespace Sys2Proof.Machine

/-! ## Runs -/

/-- `t` is reached from `s` in `k` rounds. -/
def Reaches : Nat → State → State → Prop
  | 0, s, t => s = t
  | k + 1, s, t => ∃ u, step s = .next u ∧ Reaches k u t

/-- A safe run: no state it reaches is one the spec gives no meaning to (`refuse`, R16). -/
def SafeFrom (s : State) : Prop := ∀ k t, Reaches k s t → ∀ r, step t ≠ .refused r

/-! ## The invariant -/

/-- The memory has its canonical form, KBSR[14] is 0 unless KBD_INTERRUPT (R191, R193), and a call waits only with
TRAP_MODE = abstract (R160). -/
def State.inv (s : State) : Bool :=
  Memory.wf s.mem && (!s.dev.kbsrEnable || s.cfg.kbdInterrupt) &&
    (s.waiting.isNone || decide (s.cfg.trapMode = .abstract))

/-! ## Frames -/

/-- Every general register but those listed is unchanged. -/
def SameRegsBut (rs : List Reg) (s t : State) : Prop := ∀ r, r ∉ rs → t.reg r = s.reg r

/-- Every location but those listed reads as before. -/
def SameMemoryBut (as : List Word) (s t : State) : Prop := ∀ a, a ∉ as → t.peek a = s.peek a

/-- N, Z and P are unchanged. -/
def SameFlags (s t : State) : Prop := t.psr.n = s.psr.n ∧ t.psr.z = s.psr.z ∧ t.psr.p = s.psr.p

/-- The privilege mode and the priority level are unchanged. -/
def SamePrivilege (s t : State) : Prop := t.psr.mode = s.psr.mode ∧ t.psr.pl = s.psr.pl

/-- Saved_SSP and Saved_USP are unchanged. -/
def SameStackHolders (s t : State) : Prop := t.savedSsp = s.savedSsp ∧ t.savedUsp = s.savedUsp

/-- The parameters, the model's own fields and the call that waits are unchanged. -/
def SameModel (s t : State) : Prop :=
  t.cfg = s.cfg ∧ t.schedule = s.schedule ∧ t.freeCount = s.freeCount ∧ t.waiting = s.waiting

/-- N, Z, P classify a value as a 2's complement integer (R8, R12). -/
def FlagsShow (v : Word) (t : State) : Prop :=
  t.psr.n = decide (v.toInt < 0) ∧ t.psr.z = decide (v.toInt = 0) ∧ t.psr.p = decide (0 < v.toInt)

/-- Nothing but DR and N, Z, P differs, and they are as the value says. -/
def ResultOnly (dr : Reg) (v : Word) (s t : State) : Prop :=
  t.reg dr = v ∧ FlagsShow v t ∧ SameRegsBut [dr] s t ∧ t.pc = s.pc ∧ SamePrivilege s t ∧ SameStackHolders s t ∧
    SameMemoryBut [] s t ∧ t.dev = s.dev ∧ SameModel s t

/-- Nothing but the PC and the registers listed differs. -/
def JumpOnly (target : Word) (rs : List Reg) (s t : State) : Prop :=
  t.pc = target ∧ SameRegsBut rs s t ∧ SameFlags s t ∧ SamePrivilege s t ∧ SameStackHolders s t ∧
    SameMemoryBut [] s t ∧ t.dev = s.dev ∧ SameModel s t

/-- Nothing but one ordinary location differs, and it holds the value. -/
def StoredOnly (a v : Word) (s t : State) : Prop :=
  t.peek a = v ∧ SameMemoryBut [a] s t ∧ SameRegsBut [] s t ∧ t.pc = s.pc ∧ SameFlags s t ∧ SamePrivilege s t ∧
    SameStackHolders s t ∧ t.dev = s.dev ∧ SameModel s t

/-- Nothing but the device registers differs: the frame of an access to a device register. -/
def DevicesOnly (s t : State) : Prop :=
  t.regs = s.regs ∧ t.pc = s.pc ∧ t.psr = s.psr ∧ SameStackHolders s t ∧ t.mem = s.mem ∧ SameModel s t

/-! ## When an access is answered -/

/-- MemRead answers at this address (R53). -/
def State.readable (s : State) (a : Word) : Bool := isDeviceRegister a || !inDeviceRange s.cfg a

/-- MemWrite answers at this address for this value (R54). -/
def State.writable (s : State) (a v : Word) : Bool :=
  if a = ddrAddr then s.dev.dsrReady
  else if a = mcrAddr then true
  else if a = kbsrAddr then s.cfg.kbdInterrupt || !v.getLsbD 14
  else if a = kbdrAddr ∨ a = dsrAddr then false
  else !inDeviceRange s.cfg a

/-! ## Entry to a service routine (R176, R178) -/

/-- The Supervisor Stack Pointer: R6 in Supervisor mode, Saved_SSP in User mode (R31). -/
def State.ssp (s : State) : Word :=
  match s.psr.mode with
  | .supervisor => s.reg .r6
  | .user => s.savedSsp

/-- The two locations of the frame and the vector's entry are ordinary memory. -/
def State.canEnter (s : State) (vec : BitVec 8) : Bool :=
  s.ordinary (s.ssp - 1#16) && s.ordinary (s.ssp - 2#16) && s.ordinary (vectorEntry vec)

/-- What the initiation sequence leaves (R176, R178): the frame, R6, the mode and the priority level, the stack pointer
of the interrupted mode, the PC from the table; and that nothing else differs. -/
def Entered (vec : BitVec 8) (savedPc : Word) (pl : BitVec 3) (s t : State) : Prop :=
  t.peek (s.ssp - 1#16) = s.psr.toWord ∧ t.peek (s.ssp - 2#16) = savedPc ∧
    SameMemoryBut [s.ssp - 1#16, s.ssp - 2#16] s t ∧
    t.reg .r6 = s.ssp - 2#16 ∧ SameRegsBut [.r6] s t ∧
    t.psr.mode = .supervisor ∧ t.psr.pl = pl ∧ SameFlags s t ∧
    t.savedSsp = s.savedSsp ∧ t.savedUsp = (if s.psr.mode = .user then s.reg .r6 else s.savedUsp) ∧
    t.pc = t.peek (vectorEntry vec) ∧ t.dev = s.dev ∧ SameModel s t

/-- The PC an exception saves, by EXC_PC_SAVED (R177): the address of the instruction, or of the next one. -/
def State.savedByException (s : State) : Word :=
  if s.cfg.excPcSaved = .faulting then s.pc - 1#16 else s.pc

/-! ## The privilege mode (R172) -/

/-- The same state with the privilege mode given. -/
def State.withMode (m : Mode) (s : State) : State := s.setPsr { s.psr with mode := m }

/-! ## Strings (R163, R165) -/

/-- The string at `a` is `ws`, ended by x0000, all in ordinary locations below the end of the address space. -/
def StringAt (s : State) : Word → List Word → Prop
  | a, [] => s.ordinary a = true ∧ s.peek a = 0#16
  | a, w :: ws => s.ordinary a = true ∧ s.peek a = w ∧ w ≠ 0#16 ∧ a ≠ 0xFFFF#16 ∧ StringAt s (a + 1#16) ws

/-- Of the locations from `a` on, `k` are ordinary and not x0000, and then the address wraps or a location is not
ordinary: the string has no end (U11). -/
def NoStringAt (s : State) : Nat → Word → Prop
  | 0, a => s.ordinary a = false
  | k + 1, a => s.ordinary a = true ∧ s.peek a ≠ 0#16 ∧ (a = 0xFFFF#16 ∨ NoStringAt s k (a + 1#16))

/-- What every service of Table A.2 that returns leaves as it was or should be: the link, the return, the mode, the
parameters (R160, R167), and the clock enable bit (the model's choice, log 20). -/
def Returned (s t : State) : Prop :=
  t.reg .r7 = s.pc ∧ t.pc = s.pc ∧ t.psr.mode = s.psr.mode ∧ t.cfg = s.cfg ∧ t.clockEnabled = s.clockEnabled

/-- A call of GETC or IN has shown a text and waits for its character: R7 is the return address and nothing else differs
(R161, R164; log 21). -/
def WaitsFor (k : KeyService) (text : List Byte) (s t : State) : Prop :=
  t.waiting = some k ∧ t.reg .r7 = s.pc ∧ SameRegsBut [.r7] s t ∧ t.pc = s.pc ∧ t.psr = s.psr ∧ SameStackHolders s t ∧
    SameMemoryBut [] s t ∧ t.dev = { s.dev with display := s.dev.display ++ text } ∧ t.cfg = s.cfg ∧
    t.schedule = s.schedule

/-- A call of GETC or IN that was waiting has its character: it returns, and what it shows is `text` (R161, R164). -/
def ReturnsCharacter (text : List Byte) (s t : State) : Prop :=
  t.pc = s.reg .r7 ∧ t.reg .r7 = s.reg .r7 ∧ (t.reg .r0).toNat = s.dev.kbdr.toNat ∧ t.waiting = none ∧
    t.psr.mode = s.psr.mode ∧ t.dev.display = s.dev.display ++ text ∧ t.dev.keyboard = s.dev.keyboard ∧ t.cfg = s.cfg

/-! ## The `+` column of Figure A.2 (R27, R74) -/

/-- The instructions that set N, Z, P from their result. -/
def setsFlags : Instr → Bool
  | .addReg _ _ _ => true
  | .addImm _ _ _ => true
  | .andReg _ _ _ => true
  | .andImm _ _ _ => true
  | .not _ _ => true
  | .ld _ _ => true
  | .ldi _ _ => true
  | .ldr _ _ _ => true
  | .lea _ _ => true
  | .br _ _ _ _ => false
  | .jmp _ => false
  | .ret => false
  | .jsr _ => false
  | .jsrr _ => false
  | .st _ _ => false
  | .sti _ _ => false
  | .str _ _ _ => false
  | .rti => false
  | .trap _ => false
  | .reserved _ => false
  | .getc => false
  | .out => false
  | .puts => false
  | .inp => false
  | .putsp => false
  | .halt => false

/-- The six named trap instructions and their vectors (R92(c)). -/
def namedTraps : List (Instr × BitVec 8) :=
  [(.getc, 0x20#8), (.out, 0x21#8), (.puts, 0x22#8), (.inp, 0x23#8), (.putsp, 0x24#8), (.halt, 0x25#8)]

end Sys2Proof.Machine
end

