-- ==== Sys2Proof/Certificates/Slice0/Obligations.lean ====
section
/-! DEFINITION. The statements about the machine. Sums of addresses and registers are modulo 2^16 (spec/00_scope.md R8,
decision D4). `s.pc` is the incremented PC when an instruction is performed (R14). -/

open Sys2Proof Sys2Proof.Machine

/-! ## Encoding -/

/-- One or more words of each format of R71 decode to their instruction: words of spec/95_test_vectors.md sections 1, 2.1,
2.3 (xC080) and 2.4 (xE9FF), and of the examples of R131 (xA80B), R140 (x3807) and R141 (xB806). That xF023 is `inp` and
xC1C0 is `ret`, not TRAP and JMP, is the model's naming (log 19). -/
def Obligations.SpecWordsDecode : Prop :=
  decode 0x14C4#16 = .ok (.addReg .r2 .r3 .r4) ∧ decode 0x1030#16 = .ok (.addImm .r0 .r0 0b10000#5) ∧
  decode 0x54C4#16 = .ok (.andReg .r2 .r3 .r4) ∧ decode 0x54E7#16 = .ok (.andImm .r2 .r3 0b00111#5) ∧
  decode 0x98BF#16 = .ok (.not .r4 .r2) ∧ decode 0x07FB#16 = .ok (.br false true true 0x1FB#9) ∧
  decode 0xC080#16 = .ok (.jmp .r2) ∧ decode 0xC1C0#16 = .ok .ret ∧
  decode 0x4807#16 = .ok (.jsr 7#11) ∧ decode 0x40C0#16 = .ok (.jsrr .r3) ∧
  decode 0x2808#16 = .ok (.ld .r4 8#9) ∧ decode 0xA80B#16 = .ok (.ldi .r4 11#9) ∧
  decode 0x68BB#16 = .ok (.ldr .r4 .r2 0b111011#6) ∧ decode 0xE9FF#16 = .ok (.lea .r4 0x1FF#9) ∧
  decode 0x3807#16 = .ok (.st .r4 7#9) ∧ decode 0xB806#16 = .ok (.sti .r4 6#9) ∧
  decode 0x7885#16 = .ok (.str .r4 .r2 5#6) ∧ decode 0x8000#16 = .ok .rti ∧
  decode 0xF0FF#16 = .ok (.trap 0xFF#8) ∧ decode 0xF023#16 = .ok .inp ∧
  decode 0xDABC#16 = .ok (.reserved 0xABC#12)

/-- Decoding the word of a well-formed instruction gives it back, every operand at every value (R71, R75). -/
def Obligations.DecodeOfEncodeIsTheInstruction : Prop :=
  ∀ i : Instr, i.wellFormed = true → decode (encode i) = .ok i

/-- A word that decodes is the word of what it decodes to, which is well-formed: no two words are one instruction. -/
def Obligations.EncodeOfDecodeIsTheWord : Prop :=
  ∀ (w : Word) (i : Instr), decode w = .ok i → encode i = w ∧ i.wellFormed = true

/-- The words that are no instruction are exactly those of the seven formats of R77 with a wrong fixed bit, and each is
rejected by its own name. That they are refused is decision D13. -/
def Obligations.RejectedWordsHaveAWrongFixedBit : Prop :=
  ∀ w : Word, decode w = .error (.fixedBits w) ↔
    (w &&& 0xF020#16 = 0x1000#16 ∧ w &&& 0x0018#16 ≠ 0#16) ∨ (w &&& 0xF020#16 = 0x5000#16 ∧ w &&& 0x0018#16 ≠ 0#16) ∨
    (w &&& 0xF000#16 = 0x9000#16 ∧ w &&& 0x003F#16 ≠ 0x003F#16) ∨
    (w &&& 0xF000#16 = 0xC000#16 ∧ w &&& 0x0E3F#16 ≠ 0#16) ∨ (w &&& 0xF800#16 = 0x4000#16 ∧ w &&& 0x063F#16 ≠ 0#16) ∨
    (w &&& 0xF000#16 = 0x8000#16 ∧ w &&& 0x0FFF#16 ≠ 0#16) ∨ (w &&& 0xF000#16 = 0xF000#16 ∧ w &&& 0x0F00#16 ≠ 0#16)

/-- The reserved words are exactly those with opcode 1101, whatever bits [11:0] hold (R76). -/
def Obligations.ReservedWordsAreThoseOfOpcode1101 : Prop :=
  ∀ w : Word, (∃ low, decode w = .ok (.reserved low)) ↔ w &&& 0xF000#16 = 0xD000#16

/-! ## Operand forms, flags and the PSR -/

/-- R9: bits below the width are the field's, the others its top bit; the value of the field as a signed number is
kept, so the ranges are those of the widths. -/
def Obligations.SignExtensionOfAField : Prop :=
  ∀ (n : Nat) (v : BitVec n), 0 < n → n < 16 →
    (∀ i, i < 16 → (sext16 v).getLsbD i = if i < n then v.getLsbD i else v.getLsbD (n - 1)) ∧
    (sext16 v).toInt = v.toInt ∧ -(2 ^ (n - 1) : Int) ≤ (sext16 v).toInt ∧ (sext16 v).toInt < 2 ^ (n - 1)

/-- R10: bits below the width are the field's, the others 0. -/
def Obligations.ZeroExtensionOfAField : Prop :=
  ∀ (n : Nat) (v : BitVec n), n < 16 →
    ∀ i, i < 16 → (zext16 v).getLsbD i = if i < n then v.getLsbD i else false

/-- The addresses of R134, R113, R57: the exact signed sum, taken modulo 2^16 (D4); the table entries. -/
def Obligations.AddressesOfTheOperandForms : Prop :=
  ∀ s : State,
    (∀ off : BitVec 9, pcRelative s off = BitVec.ofInt 16 (s.pc.toInt + off.toInt)) ∧
    (∀ off : BitVec 11, pcRelative s off = BitVec.ofInt 16 (s.pc.toInt + off.toInt)) ∧
    (∀ (base : Reg) (off : BitVec 6), baseOffset s base off = BitVec.ofInt 16 ((s.reg base).toInt + off.toInt)) ∧
    (∀ v : BitVec 8, (trapEntry v).toNat = v.toNat ∧ (vectorEntry v).toNat = 256 + v.toNat)

/-- R12: setcc classifies the value, exactly one code is 1 (decision D5), and mode and priority stay. -/
def Obligations.SetccClassifiesTheValue : Prop :=
  ∀ (s : State) (v : Word), FlagsShow v (s.setcc v) ∧ SamePrivilege s (s.setcc v) ∧
    (((s.setcc v).psr.n, (s.setcc v).psr.z, (s.setcc v).psr.p) = (true, false, false) ∨
     ((s.setcc v).psr.n, (s.setcc v).psr.z, (s.setcc v).psr.p) = (false, true, false) ∨
     ((s.setcc v).psr.n, (s.setcc v).psr.z, (s.setcc v).psr.p) = (false, false, true))

/-- The PSR as a word keeps bits 15, [10:8], 2, 1, 0 and nothing else (R29, R150, decisions D6, D24). -/
def Obligations.PsrWordKeepsTheDefinedBits : Prop :=
  (∀ p : Psr, Psr.ofWord p.toWord = p) ∧ ∀ w : Word, (Psr.ofWord w).toWord = w &&& 0x8707#16

/-- R170: the mode is PSR[15], 0 for Supervisor and 1 for User; in the one RTI pops, in the other it raises. -/
def Obligations.PrivilegeModeIsPsrBit15 : Prop :=
  (∀ p : Psr, (p.toWord.getLsbD 15 = false ↔ p.mode = .supervisor) ∧ (p.toWord.getLsbD 15 = true ↔ p.mode = .user)) ∧
  (∀ w : Word, (Psr.ofWord w).mode = if w.getLsbD 15 then .user else .supervisor) ∧
  ∀ s : State, (s.psr.toWord.getLsbD 15 = false → exec .rti s = returnFromInterrupt s) ∧
    (s.psr.toWord.getLsbD 15 = true → exec .rti s = raise s.cfg.vecPriv s)

/-! ## Operate instructions -/

/-- R100, R101: ADD completes; the sum modulo 2^16 (D4), the flags (D5), the frame. -/
def Obligations.AddSumsModulo : Prop :=
  (∀ (dr sr1 sr2 : Reg) (s : State), ∃ t, exec (.addReg dr sr1 sr2) s = .next t ∧
    ResultOnly dr (BitVec.ofNat 16 ((s.reg sr1).toNat + (s.reg sr2).toNat)) s t) ∧
  ∀ (dr sr1 : Reg) (imm5 : BitVec 5) (s : State), ∃ t, exec (.addImm dr sr1 imm5) s = .next t ∧
    ResultOnly dr (BitVec.ofInt 16 ((s.reg sr1).toInt + imm5.toInt)) s t

/-- R102, R103: AND completes; every bit, the flags (D5), the frame. -/
def Obligations.AndActsOnEveryBit : Prop :=
  (∀ (dr sr1 sr2 : Reg) (s : State), ∃ t, exec (.andReg dr sr1 sr2) s = .next t ∧
    (∀ i, (t.reg dr).getLsbD i = ((s.reg sr1).getLsbD i && (s.reg sr2).getLsbD i)) ∧ ResultOnly dr (t.reg dr) s t) ∧
  ∀ (dr sr1 : Reg) (imm5 : BitVec 5) (s : State), ∃ t, exec (.andImm dr sr1 imm5) s = .next t ∧
    (∀ i, i < 16 → (t.reg dr).getLsbD i = ((s.reg sr1).getLsbD i && imm5.getLsbD (min i 4))) ∧
    ResultOnly dr (t.reg dr) s t

/-- R104: NOT completes; xFFFF minus the source, the flags (D5), the frame. -/
def Obligations.NotComplements : Prop :=
  ∀ (dr sr : Reg) (s : State), ∃ t, exec (.not dr sr) s = .next t ∧
    ResultOnly dr (BitVec.ofNat 16 (65535 - (s.reg sr).toNat)) s t

/-! ## Control instructions -/

/-- R110: BR completes; it branches exactly when a tested code is 1, and changes nothing but the PC. -/
def Obligations.BranchTakenOnATestedCode : Prop :=
  ∀ (n z p : Bool) (off : BitVec 9) (s : State), ∃ t, exec (.br n z p off) s = .next t ∧
    JumpOnly (if (n = true ∧ s.psr.n = true) ∨ (z = true ∧ s.psr.z = true) ∨ (p = true ∧ s.psr.p = true)
      then BitVec.ofInt 16 (s.pc.toInt + off.toInt) else s.pc) [] s t

/-- R112: JMP completes; the PC is the base register, nothing else changes. -/
def Obligations.JmpLoadsThePc : Prop :=
  ∀ (base : Reg) (s : State), ∃ t, exec (.jmp base) s = .next t ∧ JumpOnly (s.reg base) [] s t

/-- R116: RET completes in either mode; the PC is R7, nothing else changes; it is JMP with BaseR = 111, word xC1C0. -/
def Obligations.RetLoadsThePcFromR7 : Prop :=
  encode .ret = 0xC1C0#16 ∧ ∀ s : State, ∃ t, exec .ret s = .next t ∧ exec (.jmp .r7) s = .next t ∧
    JumpOnly (s.reg .r7) [] s t

/-- R113: JSR completes; R7 is the incremented PC, the PC the incremented PC plus the offset, modulo 2^16 (decision D4,
log 18); nothing else changes. -/
def Obligations.JsrLinksAndJumps : Prop :=
  ∀ (off : BitVec 11) (s : State), encode (.jsr off) = 0b01001#5 ++ off ∧ ∃ t, exec (.jsr off) s = .next t ∧
    t.reg .r7 = s.pc ∧ JumpOnly (BitVec.ofInt 16 (s.pc.toInt + off.toInt)) [.r7] s t

/-- R114, D14: JSRR completes; for BaseR = R7 the parameter JSRR_BASE_READ decides. -/
def Obligations.JsrrLinksAndJumps : Prop :=
  ∀ (base : Reg) (s : State), ∃ t, exec (.jsrr base) s = .next t ∧ t.reg .r7 = s.pc ∧
    JumpOnly (if base = .r7 ∧ s.cfg.jsrrBaseRead = .afterLink then s.pc else s.reg base) [.r7] s t

/-- R115: after JSR, JSRR and TRAP R7 is the address after the calling instruction, a RET resumes there, and the
instructions themselves (TRAP in TRAP_MODE vectored) use no stack. -/
def Obligations.CallsLeaveTheReturnAddressInR7 : Prop :=
  ∀ (i : Instr) (s t : State),
    ((∃ off, i = .jsr off) ∨ (∃ base, i = .jsrr base) ∨ (∃ v, i = .trap v) ∨ (∃ v, (i, v) ∈ namedTraps)) →
    exec i s = .next t →
      t.reg .r7 = s.pc ∧ (∀ u : State, u.reg .r7 = t.reg .r7 → ∃ x, exec .ret u = .next x ∧ x.pc = s.pc) ∧
      (s.cfg.trapMode = .vectored → t.reg .r6 = s.reg .r6 ∧ SameMemoryBut [] s t)

/-! ## Memory primitives -/

/-- R53: MemRead at each of the five device registers, in the rest of DEVICE_RANGE and elsewhere (decision D16). A load
of DDR is a free value (U6): any 16-bit word, no device changes. -/
def Obligations.MemReadFollowsTheMap : Prop :=
  ∀ s : State,
    (∃ v, memRead 0xFE00#16 s = .ok (v, s) ∧
      v.toNat = (if s.dev.kbsrReady then 32768 else 0) + (if s.cfg.kbdInterrupt ∧ s.dev.kbsrEnable then 16384 else 0)) ∧
    (∃ v t, memRead 0xFE02#16 s = .ok (v, t) ∧ v.toNat = s.dev.kbdr.toNat ∧ DevicesOnly s t ∧
      t.dev = { s.dev with kbsrReady := false }) ∧
    (∃ v, memRead 0xFE04#16 s = .ok (v, s) ∧ v.toNat = if s.dev.dsrReady then 32768 else 0) ∧
    (∃ v t, memRead 0xFE06#16 s = .ok (v, t) ∧ t.regs = s.regs ∧ t.pc = s.pc ∧ t.psr = s.psr ∧ SameStackHolders s t ∧
      t.mem = s.mem ∧ t.dev = s.dev ∧ t.cfg = s.cfg ∧ t.schedule = s.schedule ∧ t.waiting = s.waiting) ∧
    memRead 0xFFFE#16 s = .ok (s.dev.mcr, s) ∧
    ∀ a : Word, a ∉ [0xFE00#16, 0xFE02#16, 0xFE04#16, 0xFE06#16, 0xFFFE#16] →
      (s.cfg.deviceLo ≤ a ∧ a ≤ s.cfg.deviceHi → memRead a s = .error (.deviceHole a)) ∧
      (¬(s.cfg.deviceLo ≤ a ∧ a ≤ s.cfg.deviceHi) → memRead a s = .ok (s.peek a, s))

/-- R54: MemWrite at each of the five device registers, in the rest of DEVICE_RANGE and elsewhere (decision D16). -/
def Obligations.MemWriteFollowsTheMap : Prop :=
  ∀ (s : State) (v : Word),
    (s.dev.dsrReady = true → ∃ t, memWrite 0xFE06#16 v s = .ok t ∧ DevicesOnly s t ∧
      t.dev.display = s.dev.display ++ [BitVec.ofNat 8 v.toNat] ∧ t.dev.ddr = BitVec.ofNat 8 v.toNat ∧
      t.dev = { s.dev with ddr := t.dev.ddr, dsrReady := false, display := t.dev.display }) ∧
    (s.dev.dsrReady = false → memWrite 0xFE06#16 v s = .error .displayBusy) ∧
    (∃ t, memWrite 0xFFFE#16 v s = .ok t ∧ DevicesOnly s t ∧ t.dev = { s.dev with mcr := v }) ∧
    (s.cfg.kbdInterrupt = true → ∃ t, memWrite 0xFE00#16 v s = .ok t ∧ DevicesOnly s t ∧
      t.dev = { s.dev with kbsrEnable := v.getLsbD 14 }) ∧
    (s.cfg.kbdInterrupt = false → v.getLsbD 14 = false → memWrite 0xFE00#16 v s = .ok s) ∧
    (s.cfg.kbdInterrupt = false → v.getLsbD 14 = true → memWrite 0xFE00#16 v s = .error .keyboardInterruptAbsent) ∧
    memWrite 0xFE02#16 v s = .error (.readOnlyDevice 0xFE02#16) ∧
    memWrite 0xFE04#16 v s = .error (.readOnlyDevice 0xFE04#16) ∧
    ∀ a : Word, a ∉ [0xFE00#16, 0xFE02#16, 0xFE04#16, 0xFE06#16, 0xFFFE#16] →
      (s.cfg.deviceLo ≤ a ∧ a ≤ s.cfg.deviceHi → memWrite a v s = .error (.deviceHole a)) ∧
      (¬(s.cfg.deviceLo ≤ a ∧ a ≤ s.cfg.deviceHi) → ∃ t, memWrite a v s = .ok t ∧ StoredOnly a v s t)

/-- R59: a read gives the last of the writes to its location, else what was there. -/
def Obligations.ReadGivesTheLatestWrite : Prop :=
  ∀ (m : Memory) (stores : List (Word × Word)) (a : Word),
    Memory.read (Memory.writeAll m stores) a =
      ((stores.reverse.find? fun e => e.1 == a).map (·.2)).getD (Memory.read m a)

/-! ## Loads -/

/-- R130: LD completes at every readable address with the value MemRead gives; elsewhere it is refused (U10). -/
def Obligations.LdLoadsPcRelative : Prop :=
  ∀ (dr : Reg) (off : BitVec 9) (s : State),
    (s.ordinary (pcRelative s off) = true → ∃ t, exec (.ld dr off) s = .next t ∧
      ResultOnly dr (s.peek (pcRelative s off)) s t) ∧
    (s.readable (pcRelative s off) = true → ∃ v u t, memRead (pcRelative s off) s = .ok (v, u) ∧
      exec (.ld dr off) s = .next t ∧ ResultOnly dr v u t) ∧
    (s.readable (pcRelative s off) = false → exec (.ld dr off) s = .refused (.deviceHole (pcRelative s off)))

/-- R131: LDI reads the pointer, then the data, and completes where both are readable; else it is refused (U10). -/
def Obligations.LdiLoadsThroughThePointer : Prop :=
  ∀ (dr : Reg) (off : BitVec 9) (s : State),
    (s.ordinary (pcRelative s off) = true → s.ordinary (s.peek (pcRelative s off)) = true →
      ∃ t, exec (.ldi dr off) s = .next t ∧ ResultOnly dr (s.peek (s.peek (pcRelative s off))) s t) ∧
    (s.readable (pcRelative s off) = true → ∃ ea u, memRead (pcRelative s off) s = .ok (ea, u) ∧
      (s.readable ea = true → ∃ v w t, memRead ea u = .ok (v, w) ∧ exec (.ldi dr off) s = .next t ∧
        ResultOnly dr v w t) ∧
      (s.readable ea = false → exec (.ldi dr off) s = .refused (.deviceHole ea))) ∧
    (s.readable (pcRelative s off) = false → exec (.ldi dr off) s = .refused (.deviceHole (pcRelative s off)))

/-- R132: LDR completes at every readable address with the value MemRead gives; elsewhere it is refused (U10). -/
def Obligations.LdrLoadsBaseOffset : Prop :=
  ∀ (dr base : Reg) (off : BitVec 6) (s : State),
    (s.ordinary (baseOffset s base off) = true → ∃ t, exec (.ldr dr base off) s = .next t ∧
      ResultOnly dr (s.peek (baseOffset s base off)) s t) ∧
    (s.readable (baseOffset s base off) = true → ∃ v u t, memRead (baseOffset s base off) s = .ok (v, u) ∧
      exec (.ldr dr base off) s = .next t ∧ ResultOnly dr v u t) ∧
    (s.readable (baseOffset s base off) = false →
      exec (.ldr dr base off) s = .refused (.deviceHole (baseOffset s base off)))

/-- R133: LEA completes; the address itself, the flags from it, no memory access. -/
def Obligations.LeaLoadsTheAddress : Prop :=
  ∀ (dr : Reg) (off : BitVec 9) (s : State), ∃ t, exec (.lea dr off) s = .next t ∧
    ResultOnly dr (BitVec.ofInt 16 (s.pc.toInt + off.toInt)) s t

/-- R190: a load of KBSR or DSR through a pointer sets N exactly when the device is ready. -/
def Obligations.PollingShowsTheReadyBitInN : Prop :=
  ∀ (dr : Reg) (off : BitVec 9) (s : State), s.ordinary (pcRelative s off) = true →
    (s.peek (pcRelative s off) = 0xFE00#16 → ∃ t, exec (.ldi dr off) s = .next t ∧ t.psr.n = s.dev.kbsrReady) ∧
    (s.peek (pcRelative s off) = 0xFE04#16 → ∃ t, exec (.ldi dr off) s = .next t ∧ t.psr.n = s.dev.dsrReady)

/-! ## Stores -/

/-- R140: ST stores the whole register at the PC-relative address and changes nothing else; at a device register it has
MemWrite's effect or its refusal. -/
def Obligations.StStoresPcRelative : Prop :=
  ∀ (sr : Reg) (off : BitVec 9) (s : State),
    (s.ordinary (pcRelative s off) = true → ∃ t, exec (.st sr off) s = .next t ∧
      StoredOnly (pcRelative s off) (s.reg sr) s t) ∧
    (s.writable (pcRelative s off) (s.reg sr) = true → ∃ t, exec (.st sr off) s = .next t ∧
      memWrite (pcRelative s off) (s.reg sr) s = .ok t) ∧
    (s.writable (pcRelative s off) (s.reg sr) = false → ∃ r, exec (.st sr off) s = .refused r ∧
      memWrite (pcRelative s off) (s.reg sr) s = .error r)

/-- R141: STI reads the pointer, then stores the whole register where it points and changes nothing else; at a device
register it has MemWrite's effect or its refusal. -/
def Obligations.StiStoresThroughThePointer : Prop :=
  ∀ (sr : Reg) (off : BitVec 9) (s : State),
    (s.ordinary (pcRelative s off) = true → s.ordinary (s.peek (pcRelative s off)) = true →
      ∃ t, exec (.sti sr off) s = .next t ∧ StoredOnly (s.peek (pcRelative s off)) (s.reg sr) s t) ∧
    (s.readable (pcRelative s off) = true → ∃ ea u, memRead (pcRelative s off) s = .ok (ea, u) ∧
      (u.writable ea (s.reg sr) = true → ∃ t, exec (.sti sr off) s = .next t ∧ memWrite ea (s.reg sr) u = .ok t) ∧
      (u.writable ea (s.reg sr) = false → ∃ r, exec (.sti sr off) s = .refused r ∧
        memWrite ea (s.reg sr) u = .error r)) ∧
    (s.readable (pcRelative s off) = false → exec (.sti sr off) s = .refused (.deviceHole (pcRelative s off)))

/-- R142: STR stores the whole register at base+offset and changes nothing else; at a device register it has MemWrite's
effect or its refusal. -/
def Obligations.StrStoresBaseOffset : Prop :=
  ∀ (sr base : Reg) (off : BitVec 6) (s : State),
    (s.ordinary (baseOffset s base off) = true → ∃ t, exec (.str sr base off) s = .next t ∧
      StoredOnly (baseOffset s base off) (s.reg sr) s t) ∧
    (s.writable (baseOffset s base off) (s.reg sr) = true → ∃ t, exec (.str sr base off) s = .next t ∧
      memWrite (baseOffset s base off) (s.reg sr) s = .ok t) ∧
    (s.writable (baseOffset s base off) (s.reg sr) = false → ∃ r, exec (.str sr base off) s = .refused r ∧
      memWrite (baseOffset s base off) (s.reg sr) s = .error r)

/-- R62: a word that ST, STI or STR puts at a location is the instruction that a fetch from that location gives, at once
(decision D15). -/
def Obligations.StoreIsSeenByTheNextFetch : Prop :=
  ∀ (store i : Instr) (sr : Reg) (a : Word) (s : State),
    ((∃ off, store = .st sr off ∧ a = pcRelative s off) ∨
      (∃ off u, store = .sti sr off ∧ memRead (pcRelative s off) s = .ok (a, u)) ∨
      (∃ base off, store = .str sr base off ∧ a = baseOffset s base off)) →
    s.ordinary a = true → decode (s.reg sr) = .ok i → ∃ t, exec store s = .next t ∧
      t.peek a = s.reg sr ∧ fetch (t.setPc a) = .ok (i, t.setPc (a + 1#16)) ∧
      (t.pc = a → fetch t = .ok (i, t.setPc (a + 1#16)))

/-! ## System instructions, exceptions and interrupts -/

/-- R150 in Supervisor mode (decisions D6, D7, D24): RTI completes where its two locations are readable, and is refused
elsewhere (U10). PC, then PSR, from the stack; R6 moves by two, and is exchanged when the PSR restored is a User one;
nothing else changes but what reading a device register changes. -/
def Obligations.RtiInSupervisorModeRestores : Prop :=
  ∀ s : State, s.psr.mode = .supervisor →
    (s.readable (s.reg .r6) = true → s.readable (s.reg .r6 + 1#16) = true → ∃ a u w x t,
      memRead (s.reg .r6) s = .ok (a, u) ∧ memRead (s.reg .r6 + 1#16) u = .ok (w, x) ∧ exec .rti s = .next t ∧
      t.pc = a ∧ t.psr.mode = (if w.getLsbD 15 then .user else .supervisor) ∧ t.psr.pl.toNat = w.toNat / 256 % 8 ∧
      t.psr.n = w.getLsbD 2 ∧ t.psr.z = w.getLsbD 1 ∧ t.psr.p = w.getLsbD 0 ∧
      (t.psr.mode = .user → t.savedSsp = s.reg .r6 + 2#16 ∧ t.reg .r6 = s.savedUsp) ∧
      (t.psr.mode = .supervisor → t.savedSsp = s.savedSsp ∧ t.reg .r6 = s.reg .r6 + 2#16) ∧
      t.savedUsp = s.savedUsp ∧ SameRegsBut [.r6] s t ∧ SameMemoryBut [] s t ∧ t.dev = x.dev ∧
      t.cfg = s.cfg ∧ t.schedule = s.schedule ∧ t.waiting = s.waiting ∧
      (s.ordinary (s.reg .r6) = true → s.ordinary (s.reg .r6 + 1#16) = true →
        a = s.peek (s.reg .r6) ∧ w = s.peek (s.reg .r6 + 1#16) ∧ t.dev = s.dev ∧ SameModel s t)) ∧
    (s.readable (s.reg .r6) = false → exec .rti s = .refused (.deviceHole (s.reg .r6))) ∧
    (s.readable (s.reg .r6) = true → s.readable (s.reg .r6 + 1#16) = false →
      exec .rti s = .refused (.deviceHole (s.reg .r6 + 1#16)))

/-- R174, R176, R177, R178: RTI in User mode takes the privilege mode violation: the frame, the stack switch (D7), the
saved PC by EXC_PC_SAVED (D9), the PC from the table (D8, D10); nothing else changes. -/
def Obligations.RtiInUserModeTakesTheViolation : Prop :=
  ∀ s : State, s.psr.mode = .user → s.canEnter s.cfg.vecPriv = true →
    ∃ t, exec .rti s = .next t ∧ Entered s.cfg.vecPriv s.savedByException s.psr.pl s t

/-- R152, R175 to R178: the reserved opcode takes the illegal opcode exception in either mode, whatever its low bits. -/
def Obligations.ReservedOpcodeTakesTheIllegalOpcode : Prop :=
  ∀ (low : BitVec 12) (s : State), s.canEnter s.cfg.vecIllop = true →
    ∃ t, exec (.reserved low) s = .next t ∧ Entered s.cfg.vecIllop s.savedByException s.psr.pl s t

/-- R183, R184(c) (decisions D11, D12): a source is accepted exactly when one requests above the running priority; the
one accepted has the highest priority; among equals any can be taken. -/
def Obligations.InterruptAcceptanceRule : Prop :=
  ∀ s : State,
    (∀ pick, s.accepted pick = none ↔
      ∀ src ∈ sources s.cfg, requestHolds s src.request = true → src.prio ≤ s.psr.pl) ∧
    (∀ pick src, s.accepted pick = some src → src ∈ sources s.cfg ∧ requestHolds s src.request = true ∧
      s.psr.pl < src.prio ∧ ∀ other ∈ sources s.cfg, requestHolds s other.request = true → other.prio ≤ src.prio) ∧
    ∀ src ∈ sources s.cfg, requestHolds s src.request = true → s.psr.pl < src.prio →
      (∀ other ∈ sources s.cfg, requestHolds s other.request = true → other.prio ≤ src.prio) →
      ∃ pick, s.accepted pick = some src

/-- R25 step 0, R176, R177, R183: an accepted interrupt is initiated in place of an instruction, with the PC of the
instruction not yet fetched and the source's priority (D11). The environment's turn comes first (log 12). -/
def Obligations.AcceptedInterruptIsInitiated : Prop :=
  ∀ (s : State) (src : IntSource), s.clockEnabled = true → s.waiting = none →
    s.afterTurn.accepted s.turn.pick = some src → s.afterTurn.canEnter src.vec = true →
      ∃ t, step s = .next t ∧ Entered src.vec s.pc src.prio s.afterTurn t

/-- R180: RTI after an initiation restores the PC saved, the whole PSR, every register and the stack pointers; only the
two frame locations, and Saved_USP after an entry from User mode, show that it happened. -/
def Obligations.RtiUndoesInitiation : Prop :=
  ∀ (vec : BitVec 8) (saved : Word) (prio : Option (BitVec 3)) (s t : State), s.canEnter vec = true →
    initiate vec saved prio s = .next t →
      ∃ u, exec .rti t = .next u ∧ u.pc = saved ∧ u.psr = s.psr ∧ SameRegsBut [] s u ∧ u.savedSsp = s.savedSsp ∧
        u.savedUsp = (if s.psr.mode = .user then s.reg .r6 else s.savedUsp) ∧
        SameMemoryBut [s.ssp - 1#16, s.ssp - 2#16] s u ∧ u.dev = s.dev ∧ SameModel s u

/-- R151: TRAP completes; R7 is the return address, the PC the table entry; nothing else changes. Of the six vectors of
Table A.2 this is said in TRAP_MODE vectored (D19). An entry in a hole of DEVICE_RANGE is refused. -/
def Obligations.TrapEntersThroughTheVectorTable : Prop :=
  ∀ (v : BitVec 8) (s : State), s.cfg.trapMode = .vectored ∨ v.toNat < 0x20 ∨ 0x25 < v.toNat →
    (s.ordinary (trapEntry v) = true → ∃ t, exec (.trap v) s = .next t ∧ t.reg .r7 = s.pc ∧
      JumpOnly (s.peek (trapEntry v)) [.r7] s t) ∧
    (s.ordinary (trapEntry v) = false → exec (.trap v) s = .refused (.deviceHole (trapEntry v)))

/-- R92(c), R160: in TRAP_MODE vectored GETC, OUT, PUTS, IN, PUTSP and HALT are TRAP with their vectors and complete so;
in either mode they do what TRAP with their vector does. -/
def Obligations.NamedTrapsAreTrapWithTheirVector : Prop :=
  ∀ (i : Instr) (v : BitVec 8) (s : State), (i, v) ∈ namedTraps →
    exec i s = exec (.trap v) s ∧
    (s.cfg.trapMode = .vectored → s.ordinary (trapEntry v) = true → ∃ t, exec i s = .next t ∧ t.reg .r7 = s.pc ∧
      JumpOnly (s.peek (trapEntry v)) [.r7] s t)

/-! ## The services of Table A.2, TRAP_MODE abstract (D19) -/

/-- R161: GETC returns the character in R0, its high byte clear, and shows nothing. Until KBSR[15] = 1 the call waits, and
the next rounds resume it after the environment's turn (log 12, 21: the model's way of waiting). That MCR[15] stays is log
20. -/
def Obligations.GetcReturnsTheCharacter : Prop :=
  (∀ s : State, s.cfg.trapMode = .abstract →
    (s.dev.kbsrReady = true → ∃ t, exec .getc s = .next t ∧ Returned s t ∧ (t.reg .r0).toNat = s.dev.kbdr.toNat ∧
      t.dev.display = s.dev.display ∧ t.dev.keyboard = s.dev.keyboard ∧ t.waiting = none) ∧
    (s.dev.kbsrReady = false → ∃ t, exec .getc s = .next t ∧ WaitsFor .getc [] s t)) ∧
  ∀ s : State, s.clockEnabled = true → s.waiting = some .getc →
    (s.afterTurn.dev.kbsrReady = true → ∃ t, step s = .next t ∧ ReturnsCharacter [] s.afterTurn t) ∧
    (s.afterTurn.dev.kbsrReady = false → step s = .next s.afterTurn)

/-- R162: OUT shows the low byte of R0, also where the display is busy at the call (log 24: it waits inside its step). That
MCR[15] stays is log 20. -/
def Obligations.OutShowsTheCharacter : Prop :=
  ∀ s : State, s.cfg.trapMode = .abstract → ∃ t, exec .out s = .next t ∧ Returned s t ∧
    t.dev.display = s.dev.display ++ [BitVec.ofNat 8 (s.reg .r0).toNat] ∧ t.dev.keyboard = s.dev.keyboard

/-- R163: PUTS shows the low byte of each location of the string and not its end, also where the display is busy at the
call (log 24); a string without an end is refused (U11). That MCR[15] stays is log 20. -/
def Obligations.PutsShowsTheString : Prop :=
  ∀ s : State, s.cfg.trapMode = .abstract →
    (∀ ws, StringAt s (s.reg .r0) ws → ∃ t, exec .puts s = .next t ∧ Returned s t ∧
      t.dev.display = s.dev.display ++ ws.map (fun w => BitVec.ofNat 8 w.toNat)) ∧
    (∀ k, NoStringAt s k (s.reg .r0) → exec .puts s = .refused .unterminatedString)

/-- R164: IN shows a prompt, once, and then waits for the character; it echoes it and returns it in R0, its high byte clear;
what follows the echo is open (U12). Until KBSR[15] = 1 the prompt is on the display and the next rounds resume the call
after the environment's turn (log 12, 21: the model's way of waiting). A busy display is log 24; that MCR[15] stays is log
20. -/
def Obligations.InEchoesTheCharacter : Prop :=
  (∀ s : State, s.cfg.trapMode = .abstract → ∃ prompt : List Byte,
    (s.dev.kbsrReady = true → ∃ t rest, exec .inp s = .next t ∧ Returned s t ∧
      (t.reg .r0).toNat = s.dev.kbdr.toNat ∧ t.dev.display = s.dev.display ++ prompt ++ [s.dev.kbdr] ++ rest ∧
      t.dev.keyboard = s.dev.keyboard ∧ t.waiting = none) ∧
    (s.dev.kbsrReady = false → ∃ t, exec .inp s = .next t ∧ WaitsFor .inp prompt s t)) ∧
  ∀ s : State, s.clockEnabled = true → s.waiting = some .inp →
    (s.afterTurn.dev.kbsrReady = true → ∃ t rest, step s = .next t ∧
      ReturnsCharacter (s.afterTurn.dev.kbdr :: rest) s.afterTurn t) ∧
    (s.afterTurn.dev.kbsrReady = false → step s = .next s.afterTurn)

/-- R165: PUTSP shows the low byte, then the high byte unless it is x00, of each location, also where the display is busy
at the call (log 24); a string without an end or with a low byte x00 is refused (U11). That MCR[15] stays is log 20. -/
def Obligations.PutspShowsThePackedString : Prop :=
  ∀ s : State, s.cfg.trapMode = .abstract →
    (∀ ws, StringAt s (s.reg .r0) ws → (∀ w ∈ ws, w.toNat % 256 ≠ 0) → ∃ t, exec .putsp s = .next t ∧ Returned s t ∧
      t.dev.display = s.dev.display ++ ws.flatMap fun w =>
        BitVec.ofNat 8 w.toNat :: if w.toNat / 256 = 0 then [] else [BitVec.ofNat 8 (w.toNat / 256)]) ∧
    (∀ ws, StringAt s (s.reg .r0) ws → (∃ w ∈ ws, w.toNat % 256 = 0) → exec .putsp s = .refused .packedStringGap) ∧
    (∀ k, NoStringAt s k (s.reg .r0) → exec .putsp s = .refused .unterminatedString)

/-- R166: HALT shows a message (U12) and clears MCR[15]; no round follows, which the model's step says by a fault (log 15).
The final PC is open (log 23). -/
def Obligations.HaltStopsTheProcessor : Prop :=
  ∀ s : State, s.cfg.trapMode = .abstract → ∃ t message, exec .halt s = .next t ∧ t.reg .r7 = s.pc ∧
    t.dev.display = s.dev.display ++ message ∧ t.dev.mcr.getLsbD 15 = false ∧ step t = .fault .clockStopped ∧
    t.psr.mode = s.psr.mode ∧ t.cfg = s.cfg

/-! ## The instruction cycle and the whole machine -/

/-- R25: when the clock is enabled, no call waits for a character (log 21), no interrupt is accepted and the word at the PC
is an instruction, the step is that instruction at the incremented PC, after the environment's turn (log 12) and the side
effect of the fetch. -/
def Obligations.StepRunsTheDecodedInstruction : Prop :=
  ∀ (s u : State) (w : Word) (i : Instr), s.clockEnabled = true → s.waiting = none →
    s.afterTurn.accepted s.turn.pick = none → memRead s.pc s.afterTurn = .ok (w, u) → decode w = .ok i →
      step s = exec i (u.setPc (s.pc + 1#16))

/-- R77 and U10: a word that is no instruction is refused by name, and so is a fetch from a device hole (D13, D16),
after the environment's turn (log 12). -/
def Obligations.StepRefusesWhatIsNoInstruction : Prop :=
  ∀ s : State, s.clockEnabled = true → s.waiting = none → s.afterTurn.accepted s.turn.pick = none →
    (∀ (u : State) (w : Word), memRead s.pc s.afterTurn = .ok (w, u) → decode w = .error (.fixedBits w) →
      step s = .refused (.nonCanonicalWord w)) ∧
    (s.readable s.pc = false → step s = .refused (.deviceHole s.pc))

/-- R36, R198, R216: with MCR[15] = 0 no round is run, and that is the only way a step faults: no instruction, access or
entry does. That a stopped machine answers a fault is the model's choice (log 15). -/
def Obligations.StepFaultsExactlyWhenTheClockIsOff : Prop :=
  ∀ (s : State) (f : Fault), step s = .fault f ↔ s.dev.mcr.getLsbD 15 = false

/-- R36: what can stop the processor: the stores, the pushes of an entry whose stack lies at the MCR (U19), and HALT in
TRAP_MODE abstract. No other instruction clears MCR[15]; of the five services that return in TRAP_MODE abstract that is
the model's choice (log 20). -/
def Obligations.OnlyStoresStopTheClock : Prop :=
  ∀ (i : Instr) (s t : State), exec i s = .next t → s.clockEnabled = true → t.clockEnabled = false →
    (∃ sr off, i = .st sr off) ∨ (∃ sr off, i = .sti sr off) ∨ (∃ sr base off, i = .str sr base off) ∨
    (i = .rti ∧ s.psr.mode = .user) ∨ (∃ low, i = .reserved low) ∨
    (s.cfg.trapMode = .abstract ∧ (i = .halt ∨ i = .trap 0x25#8))

/-- R27: of the instructions without a `+` in Figure A.2 only RTI, which restores the PSR, changes N, Z, P (TRAP in
TRAP_MODE vectored). -/
def Obligations.OnlyMarkedInstructionsChangeTheFlags : Prop :=
  ∀ (i : Instr) (s t : State), exec i s = .next t → setsFlags i = false → i ≠ .rti → s.cfg.trapMode = .vectored →
    SameFlags s t

/-- R171: Supervisor mode is entered only by an initiation, User mode only by RTI with bit 15 of the popped PSR set;
TRAP, JSR, JSRR, JMP and RET never change the mode; at the start it is INIT_PSR[15]. That a round's interrupt and fetch
come after the environment's turn is log 12. -/
def Obligations.PrivilegeModeChangers : Prop :=
  (∀ (i : Instr) (s t : State), exec i s = .next t → t.psr.mode ≠ s.psr.mode →
    (s.psr.mode = .user ∧ i = .rti ∧ raise s.cfg.vecPriv s = .next t) ∨
    (s.psr.mode = .user ∧ (∃ low, i = .reserved low) ∧ raise s.cfg.vecIllop s = .next t) ∨
    (s.psr.mode = .supervisor ∧ i = .rti ∧ ∃ a u w x, memRead (s.reg .r6) s = .ok (a, u) ∧
      memRead (s.reg .r6 + 1#16) u = .ok (w, x) ∧ w.getLsbD 15 = true)) ∧
  (∀ (s t : State), step s = .next t → t.psr.mode ≠ s.psr.mode →
    (∃ src, s.afterTurn.accepted s.turn.pick = some src ∧ initiate src.vec s.pc (some src.prio) s.afterTurn = .next t) ∨
    ∃ i u, fetch s.afterTurn = .ok (i, u) ∧ exec i u = .next t ∧ (i = .rti ∨ ∃ low, i = .reserved low)) ∧
  (∀ (i : Instr) (s t : State), exec i s = .next t →
    ((∃ v, i = .trap v) ∨ (∃ v, (i, v) ∈ namedTraps) ∨ (∃ off, i = .jsr off) ∨ (∃ base, i = .jsrr base) ∨
      (∃ base, i = .jmp base) ∨ i = .ret) → t.psr.mode = s.psr.mode) ∧
  (∀ (vec : BitVec 8) (saved : Word) (prio : Option (BitVec 3)) (s t : State),
    initiate vec saved prio s = .next t → t.psr.mode = .supervisor) ∧
  ∀ l : Launch, (State.launch l).psr.mode = l.psr.mode

/-- R172, R58 (decision D25): RTI apart, and the reserved opcode, whose exception saves the mode and takes the other
mode's stack, an instruction does in one mode what it does in the other, stops included; it neither looks at the mode
nor changes it. For a load of DDR and the services of TRAP_MODE abstract this is said of equal free values in the two
modes: in the model a draw depends on the draw counter alone (log 10). -/
def Obligations.PrivilegeModeMattersOnlyToRti : Prop :=
  ∀ (i : Instr) (m : Mode) (s : State), i ≠ .rti → (∀ low, i ≠ .reserved low) →
    (∀ t, exec i s = .next t → exec i (s.withMode m) = .next (t.withMode m)) ∧
    ∀ r, exec i s = .refused r → exec i (s.withMode m) = .refused r

/-- Every round keeps the invariant: the memory in canonical form, KBSR[14] 0 without KBD_INTERRUPT (R191, R193), no call
waiting but with TRAP_MODE abstract (R160). -/
def Obligations.StepKeepsTheInvariant : Prop :=
  ∀ s t : State, s.inv = true → step s = .next t → t.inv = true

/-- R40, R210: the invariant holds at reset and at every launch with a canonical image; MCR is x8000, no key has come,
KBSR[14] is 0 (D18), no request line is raised, the undefined PSR bits are 0; the keyboard does not request, and at reset
no source does. (A source of INT_SOURCES whose predicate the launch devices meet requests at a launch: log 26. The values
of INIT_* in State.reset are the model's choice, log 2 to 7, and are not stated here.) -/
def Obligations.LaunchMeetsTheInvariant : Prop :=
  State.reset.inv = true ∧ (∀ src ∈ sources State.reset.cfg, requestHolds State.reset src.request = false) ∧
  ∀ l : Launch, Memory.wf l.mem = true → (State.launch l).inv = true ∧ (State.launch l).dev.mcr = 0x8000#16 ∧
    (State.launch l).dev.kbsrReady = false ∧ (State.launch l).dev.kbsrEnable = false ∧ (State.launch l).dev.lines = [] ∧
    requestHolds (State.launch l) keyboardSource.request = false ∧ (State.launch l).waiting = none ∧
    (State.launch l).psr.toWord &&& 0x78F8#16 = 0#16

/-- The parameters of R5 stay what they are. -/
def Obligations.StepKeepsTheParameters : Prop :=
  ∀ s t : State, step s = .next t → t.cfg = s.cfg

/-- R195, R196: nothing takes a character off the display's output stream. -/
def Obligations.DisplayStreamOnlyGrows : Prop :=
  ∀ s t : State, step s = .next t → ∃ shown, t.dev.display = s.dev.display ++ shown

/-- R65, R196, R197: the environment's turn changes no register, no location and no parameter, never clears DSR[15]
and never the output stream; the keyboard delivers its next characters in order, as many as the turn says and it has,
and its data is the last of them (the turns are the model's form of the environment, log 11). -/
def Obligations.EnvironmentTouchesOnlyDevices : Prop :=
  ∀ s : State, ∃ typed,
    s.afterTurn.regs = s.regs ∧ s.afterTurn.pc = s.pc ∧ s.afterTurn.psr = s.psr ∧ SameStackHolders s s.afterTurn ∧
    s.afterTurn.mem = s.mem ∧ s.afterTurn.cfg = s.cfg ∧ s.afterTurn.waiting = s.waiting ∧
    s.afterTurn.freeCount = s.freeCount + 1 ∧
    s.afterTurn.dev.display = s.dev.display ∧ s.afterTurn.dev.mcr = s.dev.mcr ∧ s.afterTurn.dev.ddr = s.dev.ddr ∧
    s.afterTurn.dev.kbsrEnable = s.dev.kbsrEnable ∧
    (s.dev.dsrReady = true → s.afterTurn.dev.dsrReady = true) ∧
    s.dev.keyboard = typed ++ s.afterTurn.dev.keyboard ∧ typed.length = min s.turn.keys s.dev.keyboard.length ∧
    s.afterTurn.dev.kbdr = typed.getLastD s.dev.kbdr ∧
    (s.afterTurn.dev.kbsrReady = true ↔ typed ≠ [] ∨ s.dev.kbsrReady = true)

/-- R196: the display becomes ready in finite time: at the latest one boundary after the schedule's end. That bound is the
model's choice (log 11). -/
def Obligations.DisplayBecomesReady : Prop :=
  ∀ s : State, (Nat.iterate State.afterTurn (s.schedule.length + 1) s).dev.dsrReady = true

/-! ## Entries at any address (D21, U19) -/

/-- R174 to R177, R179, decision D21: every entry (RTI in User mode, the reserved opcode, an accepted interrupt: after
the environment's turn, log 12, with no call waiting, log 21) is the initiation sequence, whose two pushes and table
read are ordinary accesses wherever the stack pointer and the vector point: device registers have their effects (U19),
and where an access is refused the entry is refused with it. The state of the first push has the mode, the priority
level and the stack pointer already changed and nothing else. -/
def Obligations.EntriesMakeOrdinaryAccesses : Prop :=
  (∀ s : State, s.psr.mode = .user → exec .rti s = initiate s.cfg.vecPriv s.savedByException none s) ∧
  (∀ (low : BitVec 12) (s : State), exec (.reserved low) s = initiate s.cfg.vecIllop s.savedByException none s) ∧
  (∀ (s : State) (src : IntSource), s.clockEnabled = true → s.waiting = none →
    s.afterTurn.accepted s.turn.pick = some src →
      step s = initiate src.vec s.pc (some src.prio) s.afterTurn) ∧
  ∀ (vec : BitVec 8) (saved : Word) (prio : Option (BitVec 3)) (s : State), ∃ e : State,
    e.reg .r6 = s.ssp - 1#16 ∧ SameRegsBut [.r6] s e ∧ e.pc = s.pc ∧ e.psr.mode = .supervisor ∧
    e.psr.pl = prio.getD s.psr.pl ∧ SameFlags s e ∧ e.savedSsp = s.savedSsp ∧
    e.savedUsp = (if s.psr.mode = .user then s.reg .r6 else s.savedUsp) ∧ e.mem = s.mem ∧ e.dev = s.dev ∧
    SameModel s e ∧
    (∀ r, memWrite (s.ssp - 1#16) s.psr.toWord e = .error r → initiate vec saved prio s = .refused r) ∧
    ∀ u, memWrite (s.ssp - 1#16) s.psr.toWord e = .ok u →
      (∀ r, memWrite (s.ssp - 2#16) saved (u.setReg .r6 (s.ssp - 2#16)) = .error r →
        initiate vec saved prio s = .refused r) ∧
      ∀ w, memWrite (s.ssp - 2#16) saved (u.setReg .r6 (s.ssp - 2#16)) = .ok w →
        (∀ r, memRead (vectorEntry vec) w = .error r → initiate vec saved prio s = .refused r) ∧
        ∀ v x, memRead (vectorEntry vec) w = .ok (v, x) → initiate vec saved prio s = .next (x.setPc v)
end

