-- ==== Sys2Proof/Laws/Encoding.lean ====
section
/-! SUPPORT. The fields of an encoded word: each format gives back what was put into it. -/

namespace Sys2Proof

@[simp] theorem regOf_bitsOf (r : Reg) : regOf (bitsOf r) = r := by cases r <;> rfl

@[simp] theorem bitsOf_regOf (b : BitVec 3) : bitsOf (regOf b) = b := by revert b; decide

/-! ## A field of a concatenation -/

/-- A field that lies in the low part. -/
theorem field_low {v w n : Nat} (x : BitVec v) (y : BitVec w) (h : n = v + w) (i k : Nat) (hik : i + k ≤ w) :
    (BitVec.cast h.symm (x ++ y)).extractLsb' i k = y.extractLsb' i k := by
  subst h
  simpa using BitVec.extractLsb'_append_eq_of_add_le hik

/-- A field that lies in the high part. -/
theorem field_high {v w n : Nat} (x : BitVec v) (y : BitVec w) (h : n = v + w) (i k : Nat) (hi : w ≤ i) :
    (BitVec.cast h.symm (x ++ y)).extractLsb' i k = x.extractLsb' (i - w) k := by
  subst h
  simpa using BitVec.extractLsb'_append_eq_of_le hi

/-- A bit is the field of width 1. -/
theorem getLsbD_eq_field {n : Nat} (x : BitVec n) (i : Nat) : x.getLsbD i = (x.extractLsb' i 1).getLsbD 0 := by
  simp

/-! ## The three formats -/

variable (op : BitVec 4) (hi mid : BitVec 3)

@[simp] theorem format12_opcode (low : BitVec 12) : opcodeOf (format12 op low) = op := by
  have h := field_high op low (n := 16) rfl 12 4 (by decide)
  simpa [opcodeOf, format12] using h

@[simp] theorem format12_field (low : BitVec 12) (i k : Nat) (h : i + k ≤ 12) :
    (format12 op low).extractLsb' i k = low.extractLsb' i k := by
  simpa [format12] using field_low op low (n := 16) rfl i k h

@[simp] theorem format9_opcode (low : BitVec 9) : opcodeOf (format9 op hi low) = op := by
  have h := field_high (op ++ hi) low (n := 16) rfl 12 4 (by decide)
  have h2 := field_high op hi (n := 7) rfl 3 4 (by decide)
  simp only [BitVec.cast_eq] at h h2
  simpa [opcodeOf, format9, h] using h2

@[simp] theorem format9_hi (low : BitVec 9) : (format9 op hi low).extractLsb' 9 3 = hi := by
  have h := field_high (op ++ hi) low (n := 16) rfl 9 3 (by decide)
  have h2 := field_low op hi (n := 7) rfl 0 3 (by decide)
  simp only [BitVec.cast_eq] at h h2
  simpa [format9, h] using h2

@[simp] theorem format9_field (low : BitVec 9) (i k : Nat) (h : i + k ≤ 9) :
    (format9 op hi low).extractLsb' i k = low.extractLsb' i k := by
  simpa [format9] using field_low (op ++ hi) low (n := 16) rfl i k h

/-- The six-bit format is the nine-bit one. -/
theorem format6_eq (low : BitVec 6) : format6 op hi mid low = format9 op hi (mid ++ low) := by
  exact BitVec.append_assoc (x₁ := op ++ hi) (x₂ := mid) (x₃ := low)

@[simp] theorem format6_opcode (low : BitVec 6) : opcodeOf (format6 op hi mid low) = op := by
  rw [format6_eq, format9_opcode]

@[simp] theorem format6_hi (low : BitVec 6) : (format6 op hi mid low).extractLsb' 9 3 = hi := by
  rw [format6_eq, format9_hi]

@[simp] theorem format6_mid (low : BitVec 6) : (format6 op hi mid low).extractLsb' 6 3 = mid := by
  rw [format6_eq, format9_field _ _ _ _ _ (by decide)]
  simpa using field_high mid low (n := 9) rfl 6 3 (by decide)

@[simp] theorem format6_field (low : BitVec 6) (i k : Nat) (h : i + k ≤ 6) :
    (format6 op hi mid low).extractLsb' i k = low.extractLsb' i k := by
  rw [format6_eq, format9_field _ _ _ _ _ (by omega)]
  simpa using field_low mid low (n := 9) rfl i k h

end Sys2Proof
end

