-- ==== Sys2Proof/Laws/Memory.lean ====
section
/-! SUPPORT. The ordinary memory: a read after a write, and that every operation keeps the canonical form. -/

namespace Sys2Proof.Machine

theorem Memory.readAt_erase (m : Memory) (a b : Nat) :
    Memory.readAt (Memory.erase m a) b = if b = a then Memory.unlisted else Memory.readAt m b := by
  induction m with
  | nil => simp [Memory.erase, Memory.readAt]
  | cons e rest ih =>
    obtain ⟨k, v⟩ := e
    simp only [Memory.erase] at ih ⊢
    by_cases hk : k = a
    · subst hk
      simp only [List.filter_cons, bne_self_eq_false, Bool.false_eq_true, if_false, ih, Memory.readAt]
      by_cases hb : b = k
      · simp [hb]
      · simp [hb, Ne.symm hb]
    · have : (k != a) = true := by simpa using hk
      simp only [List.filter_cons, this, if_true, Memory.readAt, ih]
      by_cases hb : b = a
      · subst hb; simp [hk]
      · simp [hb]

theorem Memory.readAt_insert (m : Memory) (a b : Nat) (v : Word) (h : ∀ e ∈ m, e.1 ≠ a) :
    Memory.readAt (Memory.insert m a v) b = if b = a then v else Memory.readAt m b := by
  induction m with
  | nil =>
    simp only [Memory.insert, Memory.readAt]
    by_cases hb : b = a
    · simp [hb]
    · simp [hb, Ne.symm hb]
  | cons e rest ih =>
    obtain ⟨k, u⟩ := e
    have hk : k ≠ a := h (k, u) (by simp)
    have ih := ih fun e he => h e (by simp [he])
    simp only [Memory.insert]
    split
    · by_cases hb : b = a
      · simp [Memory.readAt, hb]
      · simp [Memory.readAt, hb, Ne.symm hb]
    · simp only [Memory.readAt, ih]
      by_cases hb : b = a
      · subst hb; simp [hk]
      · simp [hb]

theorem Memory.ne_of_mem_erase (m : Memory) (a : Nat) : ∀ e ∈ Memory.erase m a, e.1 ≠ a := by
  intro e he
  simp only [Memory.erase, List.mem_filter] at he
  simpa using he.2

/-- A read after a write: the value written at its address, what was there elsewhere. -/
theorem Memory.read_write (m : Memory) (a b v : Word) :
    Memory.read (Memory.write m a v) b = if b = a then v else Memory.read m b := by
  have hab : (b.toNat = a.toNat) ↔ b = a := BitVec.toNat_inj
  simp only [Memory.read, Memory.write]
  split
  · rename_i hv
    rw [Memory.readAt_erase]
    simp only [hab, hv]
  · rw [Memory.readAt_insert _ _ _ _ (Memory.ne_of_mem_erase m a.toNat), Memory.readAt_erase]
    simp only [hab]
    split <;> rfl

@[simp] theorem State.peek_poke (s : State) (a b v : Word) :
    (s.poke a v).peek b = if b = a then v else s.peek b :=
  Memory.read_write s.mem a b v

/-! ## The canonical form -/

theorem Memory.wfFrom_mono (m : Memory) (lo lo' : Nat) (h : lo' ≤ lo) (hm : Memory.wfFrom lo m = true) :
    Memory.wfFrom lo' m = true := by
  cases m with
  | nil => rfl
  | cons e rest =>
    obtain ⟨k, v⟩ := e
    simp only [Memory.wfFrom, Bool.and_eq_true, decide_eq_true_eq] at hm ⊢
    exact ⟨⟨⟨by omega, hm.1.1.2⟩, hm.1.2⟩, hm.2⟩

theorem Memory.wfFrom_erase (m : Memory) (lo a : Nat) (hm : Memory.wfFrom lo m = true) :
    Memory.wfFrom lo (Memory.erase m a) = true := by
  induction m generalizing lo with
  | nil => rfl
  | cons e rest ih =>
    obtain ⟨k, v⟩ := e
    simp only [Memory.wfFrom, Bool.and_eq_true, decide_eq_true_eq] at hm
    have hr := ih (k + 1) hm.2
    simp only [Memory.erase] at hr ⊢
    by_cases hk : k = a
    · subst hk
      simp only [List.filter_cons, bne_self_eq_false, Bool.false_eq_true, if_false]
      exact Memory.wfFrom_mono _ (k + 1) lo (by omega) hr
    · have : (k != a) = true := by simpa using hk
      simp only [List.filter_cons, this, if_true, Memory.wfFrom, Bool.and_eq_true, decide_eq_true_eq]
      exact ⟨hm.1, hr⟩

theorem Memory.wfFrom_insert (m : Memory) (lo a : Nat) (v : Word) (hlo : lo ≤ a) (ha : a < 65536)
    (hv : v ≠ Memory.unlisted) (hne : ∀ e ∈ m, e.1 ≠ a) (hm : Memory.wfFrom lo m = true) :
    Memory.wfFrom lo (Memory.insert m a v) = true := by
  induction m generalizing lo with
  | nil => simp [Memory.insert, Memory.wfFrom, hlo, ha, hv]
  | cons e rest ih =>
    obtain ⟨k, u⟩ := e
    have hk : k ≠ a := hne (k, u) (by simp)
    simp only [Memory.wfFrom, Bool.and_eq_true, decide_eq_true_eq] at hm
    simp only [Memory.insert]
    split
    · rename_i hak
      simp only [Memory.wfFrom, Bool.and_eq_true, decide_eq_true_eq]
      exact ⟨⟨⟨hlo, ha⟩, hv⟩, ⟨⟨by omega, hm.1.1.2⟩, hm.1.2⟩, hm.2⟩
    · simp only [Memory.wfFrom, Bool.and_eq_true, decide_eq_true_eq]
      exact ⟨hm.1, ih (k + 1) (by omega) (fun e he => hne e (by simp [he])) hm.2⟩

/-- A write keeps the canonical form. -/
theorem Memory.wf_write (m : Memory) (a v : Word) (hm : Memory.wf m = true) : Memory.wf (Memory.write m a v) = true := by
  simp only [Memory.write]
  split
  · exact Memory.wfFrom_erase m 0 _ hm
  · rename_i hv
    exact Memory.wfFrom_insert _ 0 _ v (Nat.zero_le _) a.isLt hv (Memory.ne_of_mem_erase m _)
      (Memory.wfFrom_erase m 0 _ hm)

/-- So do any number of writes. -/
theorem Memory.wf_writeAll (stores : List (Word × Word)) (m : Memory) (hm : Memory.wf m = true) :
    Memory.wf (Memory.writeAll m stores) = true := by
  induction stores generalizing m with
  | nil => exact hm
  | cons e rest ih => exact ih _ (Memory.wf_write m e.1 e.2 hm)

end Sys2Proof.Machine
end

