-- ==== Sys2Proof/Laws/State.lean ====
section
/-! SUPPORT. One lemma per field and update of State, true by rfl; the register file and the PSR. -/

namespace Sys2Proof.Machine

variable (s : State)

/-! ## setReg -/

@[simp] theorem State.setReg_regs (r : Reg) (v : Word) : (s.setReg r v).regs = s.regs.set r v := rfl
@[simp] theorem State.setReg_pc (r : Reg) (v : Word) : (s.setReg r v).pc = s.pc := rfl
@[simp] theorem State.setReg_psr (r : Reg) (v : Word) : (s.setReg r v).psr = s.psr := rfl
@[simp] theorem State.setReg_savedSsp (r : Reg) (v : Word) : (s.setReg r v).savedSsp = s.savedSsp := rfl
@[simp] theorem State.setReg_savedUsp (r : Reg) (v : Word) : (s.setReg r v).savedUsp = s.savedUsp := rfl
@[simp] theorem State.setReg_mem (r : Reg) (v : Word) : (s.setReg r v).mem = s.mem := rfl
@[simp] theorem State.setReg_dev (r : Reg) (v : Word) : (s.setReg r v).dev = s.dev := rfl
@[simp] theorem State.setReg_schedule (r : Reg) (v : Word) : (s.setReg r v).schedule = s.schedule := rfl
@[simp] theorem State.setReg_waiting (r : Reg) (v : Word) : (s.setReg r v).waiting = s.waiting := rfl
@[simp] theorem State.setReg_freeCount (r : Reg) (v : Word) : (s.setReg r v).freeCount = s.freeCount := rfl
@[simp] theorem State.setReg_cfg (r : Reg) (v : Word) : (s.setReg r v).cfg = s.cfg := rfl

/-! ## setPc -/

@[simp] theorem State.setPc_regs (v : Word) : (s.setPc v).regs = s.regs := rfl
@[simp] theorem State.setPc_pc (v : Word) : (s.setPc v).pc = v := rfl
@[simp] theorem State.setPc_psr (v : Word) : (s.setPc v).psr = s.psr := rfl
@[simp] theorem State.setPc_savedSsp (v : Word) : (s.setPc v).savedSsp = s.savedSsp := rfl
@[simp] theorem State.setPc_savedUsp (v : Word) : (s.setPc v).savedUsp = s.savedUsp := rfl
@[simp] theorem State.setPc_mem (v : Word) : (s.setPc v).mem = s.mem := rfl
@[simp] theorem State.setPc_dev (v : Word) : (s.setPc v).dev = s.dev := rfl
@[simp] theorem State.setPc_schedule (v : Word) : (s.setPc v).schedule = s.schedule := rfl
@[simp] theorem State.setPc_waiting (v : Word) : (s.setPc v).waiting = s.waiting := rfl
@[simp] theorem State.setPc_freeCount (v : Word) : (s.setPc v).freeCount = s.freeCount := rfl
@[simp] theorem State.setPc_cfg (v : Word) : (s.setPc v).cfg = s.cfg := rfl

/-! ## setPsr -/

@[simp] theorem State.setPsr_regs (p : Psr) : (s.setPsr p).regs = s.regs := rfl
@[simp] theorem State.setPsr_pc (p : Psr) : (s.setPsr p).pc = s.pc := rfl
@[simp] theorem State.setPsr_psr (p : Psr) : (s.setPsr p).psr = p := rfl
@[simp] theorem State.setPsr_savedSsp (p : Psr) : (s.setPsr p).savedSsp = s.savedSsp := rfl
@[simp] theorem State.setPsr_savedUsp (p : Psr) : (s.setPsr p).savedUsp = s.savedUsp := rfl
@[simp] theorem State.setPsr_mem (p : Psr) : (s.setPsr p).mem = s.mem := rfl
@[simp] theorem State.setPsr_dev (p : Psr) : (s.setPsr p).dev = s.dev := rfl
@[simp] theorem State.setPsr_schedule (p : Psr) : (s.setPsr p).schedule = s.schedule := rfl
@[simp] theorem State.setPsr_waiting (p : Psr) : (s.setPsr p).waiting = s.waiting := rfl
@[simp] theorem State.setPsr_freeCount (p : Psr) : (s.setPsr p).freeCount = s.freeCount := rfl
@[simp] theorem State.setPsr_cfg (p : Psr) : (s.setPsr p).cfg = s.cfg := rfl

/-! ## setcc -/

@[simp] theorem State.setcc_regs (v : Word) : (s.setcc v).regs = s.regs := rfl
@[simp] theorem State.setcc_pc (v : Word) : (s.setcc v).pc = s.pc := rfl
@[simp] theorem State.setcc_psr (v : Word) : (s.setcc v).psr = s.psr.setcc v := rfl
@[simp] theorem State.setcc_savedSsp (v : Word) : (s.setcc v).savedSsp = s.savedSsp := rfl
@[simp] theorem State.setcc_savedUsp (v : Word) : (s.setcc v).savedUsp = s.savedUsp := rfl
@[simp] theorem State.setcc_mem (v : Word) : (s.setcc v).mem = s.mem := rfl
@[simp] theorem State.setcc_dev (v : Word) : (s.setcc v).dev = s.dev := rfl
@[simp] theorem State.setcc_schedule (v : Word) : (s.setcc v).schedule = s.schedule := rfl
@[simp] theorem State.setcc_waiting (v : Word) : (s.setcc v).waiting = s.waiting := rfl
@[simp] theorem State.setcc_freeCount (v : Word) : (s.setcc v).freeCount = s.freeCount := rfl
@[simp] theorem State.setcc_cfg (v : Word) : (s.setcc v).cfg = s.cfg := rfl

/-! ## poke -/

@[simp] theorem State.poke_regs (a v : Word) : (s.poke a v).regs = s.regs := rfl
@[simp] theorem State.poke_pc (a v : Word) : (s.poke a v).pc = s.pc := rfl
@[simp] theorem State.poke_psr (a v : Word) : (s.poke a v).psr = s.psr := rfl
@[simp] theorem State.poke_savedSsp (a v : Word) : (s.poke a v).savedSsp = s.savedSsp := rfl
@[simp] theorem State.poke_savedUsp (a v : Word) : (s.poke a v).savedUsp = s.savedUsp := rfl
@[simp] theorem State.poke_mem (a v : Word) : (s.poke a v).mem = Memory.write s.mem a v := rfl
@[simp] theorem State.poke_dev (a v : Word) : (s.poke a v).dev = s.dev := rfl
@[simp] theorem State.poke_schedule (a v : Word) : (s.poke a v).schedule = s.schedule := rfl
@[simp] theorem State.poke_waiting (a v : Word) : (s.poke a v).waiting = s.waiting := rfl
@[simp] theorem State.poke_freeCount (a v : Word) : (s.poke a v).freeCount = s.freeCount := rfl
@[simp] theorem State.poke_cfg (a v : Word) : (s.poke a v).cfg = s.cfg := rfl

/-! ## setDev -/

@[simp] theorem State.setDev_regs (d : Devices) : (s.setDev d).regs = s.regs := rfl
@[simp] theorem State.setDev_pc (d : Devices) : (s.setDev d).pc = s.pc := rfl
@[simp] theorem State.setDev_psr (d : Devices) : (s.setDev d).psr = s.psr := rfl
@[simp] theorem State.setDev_savedSsp (d : Devices) : (s.setDev d).savedSsp = s.savedSsp := rfl
@[simp] theorem State.setDev_savedUsp (d : Devices) : (s.setDev d).savedUsp = s.savedUsp := rfl
@[simp] theorem State.setDev_mem (d : Devices) : (s.setDev d).mem = s.mem := rfl
@[simp] theorem State.setDev_dev (d : Devices) : (s.setDev d).dev = d := rfl
@[simp] theorem State.setDev_schedule (d : Devices) : (s.setDev d).schedule = s.schedule := rfl
@[simp] theorem State.setDev_waiting (d : Devices) : (s.setDev d).waiting = s.waiting := rfl
@[simp] theorem State.setDev_freeCount (d : Devices) : (s.setDev d).freeCount = s.freeCount := rfl
@[simp] theorem State.setDev_cfg (d : Devices) : (s.setDev d).cfg = s.cfg := rfl

/-! ## setSavedSsp -/

@[simp] theorem State.setSavedSsp_regs (v : Word) : (s.setSavedSsp v).regs = s.regs := rfl
@[simp] theorem State.setSavedSsp_pc (v : Word) : (s.setSavedSsp v).pc = s.pc := rfl
@[simp] theorem State.setSavedSsp_psr (v : Word) : (s.setSavedSsp v).psr = s.psr := rfl
@[simp] theorem State.setSavedSsp_savedSsp (v : Word) : (s.setSavedSsp v).savedSsp = v := rfl
@[simp] theorem State.setSavedSsp_savedUsp (v : Word) : (s.setSavedSsp v).savedUsp = s.savedUsp := rfl
@[simp] theorem State.setSavedSsp_mem (v : Word) : (s.setSavedSsp v).mem = s.mem := rfl
@[simp] theorem State.setSavedSsp_dev (v : Word) : (s.setSavedSsp v).dev = s.dev := rfl
@[simp] theorem State.setSavedSsp_schedule (v : Word) : (s.setSavedSsp v).schedule = s.schedule := rfl
@[simp] theorem State.setSavedSsp_waiting (v : Word) : (s.setSavedSsp v).waiting = s.waiting := rfl
@[simp] theorem State.setSavedSsp_freeCount (v : Word) : (s.setSavedSsp v).freeCount = s.freeCount := rfl
@[simp] theorem State.setSavedSsp_cfg (v : Word) : (s.setSavedSsp v).cfg = s.cfg := rfl

/-! ## setSavedUsp -/

@[simp] theorem State.setSavedUsp_regs (v : Word) : (s.setSavedUsp v).regs = s.regs := rfl
@[simp] theorem State.setSavedUsp_pc (v : Word) : (s.setSavedUsp v).pc = s.pc := rfl
@[simp] theorem State.setSavedUsp_psr (v : Word) : (s.setSavedUsp v).psr = s.psr := rfl
@[simp] theorem State.setSavedUsp_savedSsp (v : Word) : (s.setSavedUsp v).savedSsp = s.savedSsp := rfl
@[simp] theorem State.setSavedUsp_savedUsp (v : Word) : (s.setSavedUsp v).savedUsp = v := rfl
@[simp] theorem State.setSavedUsp_mem (v : Word) : (s.setSavedUsp v).mem = s.mem := rfl
@[simp] theorem State.setSavedUsp_dev (v : Word) : (s.setSavedUsp v).dev = s.dev := rfl
@[simp] theorem State.setSavedUsp_schedule (v : Word) : (s.setSavedUsp v).schedule = s.schedule := rfl
@[simp] theorem State.setSavedUsp_waiting (v : Word) : (s.setSavedUsp v).waiting = s.waiting := rfl
@[simp] theorem State.setSavedUsp_freeCount (v : Word) : (s.setSavedUsp v).freeCount = s.freeCount := rfl
@[simp] theorem State.setSavedUsp_cfg (v : Word) : (s.setSavedUsp v).cfg = s.cfg := rfl

/-! ## setWaiting -/

@[simp] theorem State.setWaiting_regs (w : Option KeyService) : (s.setWaiting w).regs = s.regs := rfl
@[simp] theorem State.setWaiting_pc (w : Option KeyService) : (s.setWaiting w).pc = s.pc := rfl
@[simp] theorem State.setWaiting_psr (w : Option KeyService) : (s.setWaiting w).psr = s.psr := rfl
@[simp] theorem State.setWaiting_savedSsp (w : Option KeyService) : (s.setWaiting w).savedSsp = s.savedSsp := rfl
@[simp] theorem State.setWaiting_savedUsp (w : Option KeyService) : (s.setWaiting w).savedUsp = s.savedUsp := rfl
@[simp] theorem State.setWaiting_mem (w : Option KeyService) : (s.setWaiting w).mem = s.mem := rfl
@[simp] theorem State.setWaiting_dev (w : Option KeyService) : (s.setWaiting w).dev = s.dev := rfl
@[simp] theorem State.setWaiting_schedule (w : Option KeyService) : (s.setWaiting w).schedule = s.schedule := rfl
@[simp] theorem State.setWaiting_freeCount (w : Option KeyService) : (s.setWaiting w).freeCount = s.freeCount := rfl
@[simp] theorem State.setWaiting_cfg (w : Option KeyService) : (s.setWaiting w).cfg = s.cfg := rfl
@[simp] theorem State.setWaiting_waiting (w : Option KeyService) : (s.setWaiting w).waiting = w := rfl

/-! ## drawn -/

@[simp] theorem State.drawn_regs (n : Nat) : (s.drawn n).regs = s.regs := rfl
@[simp] theorem State.drawn_pc (n : Nat) : (s.drawn n).pc = s.pc := rfl
@[simp] theorem State.drawn_psr (n : Nat) : (s.drawn n).psr = s.psr := rfl
@[simp] theorem State.drawn_savedSsp (n : Nat) : (s.drawn n).savedSsp = s.savedSsp := rfl
@[simp] theorem State.drawn_savedUsp (n : Nat) : (s.drawn n).savedUsp = s.savedUsp := rfl
@[simp] theorem State.drawn_mem (n : Nat) : (s.drawn n).mem = s.mem := rfl
@[simp] theorem State.drawn_dev (n : Nat) : (s.drawn n).dev = s.dev := rfl
@[simp] theorem State.drawn_schedule (n : Nat) : (s.drawn n).schedule = s.schedule := rfl
@[simp] theorem State.drawn_waiting (n : Nat) : (s.drawn n).waiting = s.waiting := rfl
@[simp] theorem State.drawn_freeCount (n : Nat) : (s.drawn n).freeCount = s.freeCount + n := rfl
@[simp] theorem State.drawn_cfg (n : Nat) : (s.drawn n).cfg = s.cfg := rfl

/-! ## Registers -/

@[simp] theorem State.reg_setPc (v : Word) (r : Reg) : (s.setPc v).reg r = s.reg r := rfl
@[simp] theorem State.reg_setPsr (p : Psr) (r : Reg) : (s.setPsr p).reg r = s.reg r := rfl
@[simp] theorem State.reg_setcc (v : Word) (r : Reg) : (s.setcc v).reg r = s.reg r := rfl
@[simp] theorem State.reg_poke (a v : Word) (r : Reg) : (s.poke a v).reg r = s.reg r := rfl
@[simp] theorem State.reg_setDev (d : Devices) (r : Reg) : (s.setDev d).reg r = s.reg r := rfl
@[simp] theorem State.reg_setSavedSsp (v : Word) (r : Reg) : (s.setSavedSsp v).reg r = s.reg r := rfl
@[simp] theorem State.reg_setSavedUsp (v : Word) (r : Reg) : (s.setSavedUsp v).reg r = s.reg r := rfl
@[simp] theorem State.reg_setWaiting (w : Option KeyService) (r : Reg) : (s.setWaiting w).reg r = s.reg r := rfl
@[simp] theorem State.reg_drawn (n : Nat) (r : Reg) : (s.drawn n).reg r = s.reg r := rfl

theorem Regs.get_set (g : Regs) (i j : Reg) (v : Word) : (g.set i v).get j = if j = i then v else g.get j := by
  cases i <;> cases j <;> rfl

@[simp] theorem State.reg_setReg (i j : Reg) (v : Word) : (s.setReg i v).reg j = if j = i then v else s.reg j :=
  Regs.get_set s.regs i j v

/-! ## Results -/

@[simp] theorem State.setResult_psr (r : Reg) (v : Word) : (s.setResult r v).psr = s.psr.setcc v := rfl
@[simp] theorem State.setResult_pc (r : Reg) (v : Word) : (s.setResult r v).pc = s.pc := rfl
@[simp] theorem State.setResult_savedSsp (r : Reg) (v : Word) : (s.setResult r v).savedSsp = s.savedSsp := rfl
@[simp] theorem State.setResult_savedUsp (r : Reg) (v : Word) : (s.setResult r v).savedUsp = s.savedUsp := rfl
@[simp] theorem State.setResult_mem (r : Reg) (v : Word) : (s.setResult r v).mem = s.mem := rfl
@[simp] theorem State.setResult_dev (r : Reg) (v : Word) : (s.setResult r v).dev = s.dev := rfl
@[simp] theorem State.setResult_schedule (r : Reg) (v : Word) : (s.setResult r v).schedule = s.schedule := rfl
@[simp] theorem State.setResult_waiting (r : Reg) (v : Word) : (s.setResult r v).waiting = s.waiting := rfl
@[simp] theorem State.setResult_freeCount (r : Reg) (v : Word) : (s.setResult r v).freeCount = s.freeCount := rfl
@[simp] theorem State.setResult_cfg (r : Reg) (v : Word) : (s.setResult r v).cfg = s.cfg := rfl

@[simp] theorem State.reg_setResult (i j : Reg) (v : Word) : (s.setResult i v).reg j = if j = i then v else s.reg j :=
  Regs.get_set s.regs i j v

/-! ## The PSR -/

@[simp] theorem Psr.setcc_mode (p : Psr) (v : Word) : (p.setcc v).mode = p.mode := rfl
@[simp] theorem Psr.setcc_pl (p : Psr) (v : Word) : (p.setcc v).pl = p.pl := rfl

theorem Psr.setcc_n (p : Psr) (v : Word) : (p.setcc v).n = decide (v.toInt < 0) :=
  BitVec.msb_eq_toInt (x := v)

theorem toInt_eq_zero (v : Word) : v.toInt = 0 ↔ v = 0#16 := by
  constructor
  · intro h
    apply BitVec.eq_of_toInt_eq
    simpa using h
  · rintro rfl
    rfl

theorem Psr.setcc_z (p : Psr) (v : Word) : (p.setcc v).z = decide (v.toInt = 0) := by
  simp only [Psr.setcc, toInt_eq_zero]

theorem Psr.setcc_p (p : Psr) (v : Word) : (p.setcc v).p = decide (0 < v.toInt) := by
  have h := toInt_eq_zero v
  simp only [Psr.setcc, BitVec.msb_eq_toInt, ne_eq, ← h]
  rw [Bool.eq_iff_iff]
  simp
  omega

/-- A PSR survives being pushed and popped. -/
@[simp] theorem Psr.ofWord_toWord (p : Psr) : Psr.ofWord p.toWord = p := by
  obtain ⟨mode, pl, n, z, p⟩ := p
  revert pl
  cases mode <;> cases n <;> cases z <;> cases p <;> decide

/-! ## Locations -/

@[simp] theorem State.peek_setReg (r : Reg) (v : Word) (x : Word) : (s.setReg r v).peek x = s.peek x := rfl
@[simp] theorem State.peek_setPc (v : Word) (x : Word) : (s.setPc v).peek x = s.peek x := rfl
@[simp] theorem State.peek_setPsr (p : Psr) (x : Word) : (s.setPsr p).peek x = s.peek x := rfl
@[simp] theorem State.peek_setcc (v : Word) (x : Word) : (s.setcc v).peek x = s.peek x := rfl
@[simp] theorem State.peek_setDev (d : Devices) (x : Word) : (s.setDev d).peek x = s.peek x := rfl
@[simp] theorem State.peek_setSavedSsp (v : Word) (x : Word) : (s.setSavedSsp v).peek x = s.peek x := rfl
@[simp] theorem State.peek_setSavedUsp (v : Word) (x : Word) : (s.setSavedUsp v).peek x = s.peek x := rfl
@[simp] theorem State.peek_setWaiting (w : Option KeyService) (x : Word) : (s.setWaiting w).peek x = s.peek x := rfl
@[simp] theorem State.peek_drawn (n : Nat) (x : Word) : (s.drawn n).peek x = s.peek x := rfl
@[simp] theorem State.peek_setResult (r : Reg) (v x : Word) : (s.setResult r v).peek x = s.peek x := rfl

end Sys2Proof.Machine
end

