-- ==== Sys2Proof/Laws/Ops.lean ====
section
/-! SUPPORT. What each shared operation can do, said once: the memory primitives, push, pop, the initiation sequence, the
fetch and the environment's turn. -/

namespace Sys2Proof.Machine

variable {s t u : State} {a v w : Word}

/-! ## MemRead -/

/-- An ordinary location is none of the five device registers and not in DEVICE_RANGE. -/
theorem ordinary_iff : s.ordinary a = true ↔
    (a ≠ kbsrAddr ∧ a ≠ kbdrAddr ∧ a ≠ dsrAddr ∧ a ≠ ddrAddr ∧ a ≠ mcrAddr) ∧ inDeviceRange s.cfg a = false := by
  simp [State.ordinary, isDeviceRegister, and_assoc]

/-- An ordinary location is read without a side effect. -/
theorem memRead_ordinary (h : s.ordinary a = true) : memRead a s = .ok (s.peek a, s) := by
  obtain ⟨⟨h1, h2, h3, h4, h5⟩, h6⟩ := ordinary_iff.1 h
  simp [memRead, h1, h2, h3, h4, h5, h6]

/-- MemRead answers exactly at the readable addresses. -/
theorem memRead_readable (h : s.readable a = true) : ∃ v t, memRead a s = .ok (v, t) := by
  simp only [State.readable, isDeviceRegister, Bool.or_eq_true, beq_iff_eq, Bool.not_eq_true'] at h
  unfold memRead
  split_ifs <;> simp_all

/-- Elsewhere it is refused as a hole of the device range. -/
theorem memRead_hole (h : s.readable a = false) : memRead a s = .error (.deviceHole a) := by
  simp only [State.readable, isDeviceRegister, Bool.or_eq_false_iff, beq_eq_false_iff_ne, ne_eq, Bool.not_eq_false'] at h
  obtain ⟨⟨⟨⟨⟨h1, h2⟩, h3⟩, h4⟩, h5⟩, h6⟩ := h
  simp [memRead, h1, h2, h3, h4, h5, h6]

/-- All a read can change: the keyboard's ready bit is cleared, or a free value is drawn. -/
theorem memRead_cases (h : memRead a s = .ok (v, t)) :
    t = s ∨ t = s.setDev { s.dev with kbsrReady := false } ∨ t = s.drawn 1 := by
  unfold memRead at h
  split_ifs at h <;> simp only [Except.ok.injEq, Prod.mk.injEq] at h <;> simp [← h.2]

/-- The fields a read leaves alone. -/
theorem memRead_frame (h : memRead a s = .ok (v, t)) :
    t.regs = s.regs ∧ t.pc = s.pc ∧ t.psr = s.psr ∧ t.savedSsp = s.savedSsp ∧ t.savedUsp = s.savedUsp ∧
      t.mem = s.mem ∧ t.schedule = s.schedule ∧ t.cfg = s.cfg ∧ t.waiting = s.waiting := by
  obtain rfl | rfl | rfl := memRead_cases h <;> simp

theorem memRead_readable_congr (h : memRead a s = .ok (v, t)) (b : Word) : t.readable b = s.readable b := by
  simp only [State.readable, (memRead_frame h).2.2.2.2.2.2.2.1]

/-! ## MemWrite -/

/-- An ordinary location is given the value. -/
theorem memWrite_ordinary (h : s.ordinary a = true) : memWrite a v s = .ok (s.poke a v) := by
  obtain ⟨⟨h1, h2, h3, h4, h5⟩, h6⟩ := ordinary_iff.1 h
  simp [memWrite, h1, h2, h3, h4, h5, h6]

/-- MemWrite answers exactly at the writable addresses. -/
theorem memWrite_writable : s.writable a v = true ↔ ∃ t, memWrite a v s = .ok t := by
  unfold State.writable memWrite displayWrite keyboardStatusWrite
  split_ifs <;> simp_all

theorem memWrite_refused (h : s.writable a v = false) : ∃ r, memWrite a v s = .error r := by
  match hw : memWrite a v s with
  | .error r => exact ⟨r, rfl⟩
  | .ok t => simp [memWrite_writable.2 ⟨t, hw⟩] at h

/-- All a write can change: the display, the MCR, the enable bit of KBSR with KBD_INTERRUPT, nothing, or one location. -/
theorem memWrite_cases (h : memWrite a v s = .ok t) :
    (a = ddrAddr ∧ s.dev.dsrReady = true ∧ t = s.setDev { s.dev with
      ddr := v.extractLsb' 0 8, dsrReady := false, display := s.dev.display ++ [v.extractLsb' 0 8] }) ∨
    (a = mcrAddr ∧ t = s.setDev { s.dev with mcr := v }) ∨
    (a = kbsrAddr ∧ s.cfg.kbdInterrupt = true ∧ t = s.setDev { s.dev with kbsrEnable := v.getLsbD 14 }) ∨
    (a = kbsrAddr ∧ t = s) ∨ (s.ordinary a = true ∧ t = s.poke a v) := by
  unfold memWrite displayWrite keyboardStatusWrite at h
  split_ifs at h <;> simp only [Except.ok.injEq] at h <;> subst h <;> simp_all [ordinary_iff]

/-- The fields a write leaves alone. -/
theorem memWrite_frame (h : memWrite a v s = .ok t) :
    t.regs = s.regs ∧ t.pc = s.pc ∧ t.psr = s.psr ∧ t.savedSsp = s.savedSsp ∧ t.savedUsp = s.savedUsp ∧
      t.schedule = s.schedule ∧ t.freeCount = s.freeCount ∧ t.cfg = s.cfg ∧ t.waiting = s.waiting := by
  obtain ⟨_, _, rfl⟩ | ⟨_, rfl⟩ | ⟨_, _, rfl⟩ | ⟨_, rfl⟩ | ⟨_, rfl⟩ := memWrite_cases h <;> simp

/-! ## Going on after an access -/

theorem withRead_next {k : Word → State → Result} (h : withRead a s k = .next u) :
    ∃ v t, memRead a s = .ok (v, t) ∧ k v t = .next u := by
  unfold withRead at h
  split at h
  · rename_i p hp
    exact ⟨p.1, p.2, hp, h⟩
  · cases h

theorem withWrite_next {k : State → Result} (h : withWrite a v s k = .next u) :
    ∃ t, memWrite a v s = .ok t ∧ k t = .next u := by
  unfold withWrite at h
  split at h
  · rename_i t ht
    exact ⟨t, ht, h⟩
  · cases h

theorem withRead_of_ok {k : Word → State → Result} (h : memRead a s = .ok (v, t)) : withRead a s k = k v t := by
  simp [withRead, h]

theorem withWrite_of_ok {k : State → Result} (h : memWrite a v s = .ok t) : withWrite a v s k = k t := by
  simp [withWrite, h]

theorem withRead_of_error {k : Word → State → Result} {r : Refusal} (h : memRead a s = .error r) :
    withRead a s k = .refused r := by
  simp [withRead, h]

theorem withWrite_of_error {k : State → Result} {r : Refusal} (h : memWrite a v s = .error r) :
    withWrite a v s k = .refused r := by
  simp [withWrite, h]

/-- No access faults. -/
theorem withRead_fault {k : Word → State → Result} {f : Fault} (h : withRead a s k = .fault f) :
    ∃ v t, memRead a s = .ok (v, t) ∧ k v t = .fault f := by
  unfold withRead at h
  split at h
  · rename_i p hp
    exact ⟨p.1, p.2, hp, h⟩
  · cases h

theorem withWrite_fault {k : State → Result} {f : Fault} (h : withWrite a v s k = .fault f) :
    ∃ t, memWrite a v s = .ok t ∧ k t = .fault f := by
  unfold withWrite at h
  split at h
  · rename_i t ht
    exact ⟨t, ht, h⟩
  · cases h

/-! ## Push and pop -/

theorem push_next {k : State → Result} (h : push v s k = .next u) :
    ∃ t, memWrite (s.reg .r6 - 1#16) v (s.setReg .r6 (s.reg .r6 - 1#16)) = .ok t ∧ k t = .next u :=
  withWrite_next h

theorem pop_next {k : Word → State → Result} (h : pop s k = .next u) :
    ∃ v t, memRead (s.reg .r6) s = .ok (v, t) ∧ k v (t.setReg .r6 (t.reg .r6 + 1#16)) = .next u :=
  withRead_next h

/-- A push to an ordinary location. -/
theorem push_ordinary {k : State → Result} (h : s.ordinary (s.reg .r6 - 1#16) = true) :
    push v s k = k ((s.setReg .r6 (s.reg .r6 - 1#16)).poke (s.reg .r6 - 1#16) v) :=
  withWrite_of_ok (memWrite_ordinary h)

/-- A pop from an ordinary location. -/
theorem pop_ordinary {k : Word → State → Result} (h : s.ordinary (s.reg .r6) = true) :
    pop s k = k (s.peek (s.reg .r6)) (s.setReg .r6 (s.reg .r6 + 1#16)) :=
  withRead_of_ok (memRead_ordinary h)

/-! ## The stack switch -/

@[simp] theorem switchToSupervisorStack_r6 : (switchToSupervisorStack s).reg .r6 = s.ssp := by
  unfold switchToSupervisorStack State.ssp
  cases s.psr.mode <;> simp

theorem switchToSupervisorStack_frame :
    SameRegsBut [.r6] s (switchToSupervisorStack s) ∧ (switchToSupervisorStack s).pc = s.pc ∧
      (switchToSupervisorStack s).psr = s.psr ∧ (switchToSupervisorStack s).savedSsp = s.savedSsp ∧
      (switchToSupervisorStack s).savedUsp = (if s.psr.mode = .user then s.reg .r6 else s.savedUsp) ∧
      (switchToSupervisorStack s).mem = s.mem ∧ (switchToSupervisorStack s).dev = s.dev ∧
      SameModel s (switchToSupervisorStack s) := by
  unfold switchToSupervisorStack
  cases hm : s.psr.mode <;> simp_all [SameRegsBut, SameModel]

/-! ## Initiation -/

/-- The two writes and the read of an initiation that answers a next state. -/
theorem initiate_next {vec : BitVec 8} {pc0 : Word} {prio : Option (BitVec 3)} (h : initiate vec pc0 prio s = .next u) :
    ∃ s0 s1 s2 s3 v, s0 = enterSupervisor prio (switchToSupervisorStack s) ∧
      memWrite (s0.reg .r6 - 1#16) s.psr.toWord (s0.setReg .r6 (s0.reg .r6 - 1#16)) = .ok s1 ∧
      memWrite (s1.reg .r6 - 1#16) pc0 (s1.setReg .r6 (s1.reg .r6 - 1#16)) = .ok s2 ∧
      memRead (vectorEntry vec) s2 = .ok (v, s3) ∧ u = s3.setPc v := by
  obtain ⟨s1, h1, h⟩ := push_next h
  obtain ⟨s2, h2, h⟩ := push_next h
  obtain ⟨v, s3, h3, h⟩ := withRead_next h
  exact ⟨_, s1, s2, s3, v, rfl, h1, h2, h3, by cases h; rfl⟩

/-- The two reads of an RTI that answers a next state. -/
theorem returnFromInterrupt_next (h : returnFromInterrupt s = .next u) :
    ∃ pcw s1 w s2, memRead (s.reg .r6) s = .ok (pcw, s1) ∧
      memRead (s1.reg .r6 + 1#16) ((s1.setReg .r6 (s1.reg .r6 + 1#16)).setPc pcw) = .ok (w, s2) ∧
      u = leaveSupervisorStack ((s2.setReg .r6 (s2.reg .r6 + 1#16)).setPsr (Psr.ofWord w)) := by
  obtain ⟨pcw, s1, h1, h⟩ := pop_next h
  obtain ⟨w, s2, h2, h⟩ := pop_next h
  refine ⟨pcw, s1, w, s2, h1, ?_, by cases h; rfl⟩
  simpa using h2

/-- The initiation onto an ordinary stack completes, and leaves what R176 and R178 say. -/
theorem initiate_ordinary (vec : BitVec 8) (pc0 : Word) (prio : Option (BitVec 3)) (h : s.canEnter vec = true) :
    ∃ t, initiate vec pc0 prio s = .next t ∧ Entered vec pc0 (prio.getD s.psr.pl) s t := by
  simp only [State.canEnter, Bool.and_eq_true] at h
  obtain ⟨⟨h1, h2⟩, h3⟩ := h
  obtain ⟨f1, f2, f3, f4, f5, f6, f7, f8, f9, f10⟩ := switchToSupervisorStack_frame (s := s)
  generalize hs0 : enterSupervisor prio (switchToSupervisorStack s) = s0
  have r6 : s0.reg .r6 = s.ssp := by simp [← hs0, enterSupervisor]
  have cfg : s0.cfg = s.cfg := by simp [← hs0, enterSupervisor, f8]
  have two : s.ssp - 1#16 - 1#16 = s.ssp - 2#16 := by bv_omega
  have ne : s.ssp - 1#16 ≠ s.ssp - 2#16 := by bv_omega
  have ord : ∀ x : State, x.cfg = s.cfg → ∀ b, s.ordinary b = true → x.ordinary b = true := by
    intro x hx b hb
    simpa [State.ordinary, hx] using hb
  unfold initiate
  rw [hs0, push_ordinary (ord _ cfg _ (by rw [r6]; exact h1)), push_ordinary, withRead_of_ok (memRead_ordinary _)]
  · refine ⟨_, rfl, ?_⟩
    have m : s0.mem = s.mem := by simp [← hs0, enterSupervisor, f6]
    have pk : ∀ b, s0.peek b = s.peek b := fun b => by simp [State.peek, m]
    have g : SameRegsBut [.r6] s s0 := fun r hr => by
      simpa [← hs0, enterSupervisor] using f1 r hr
    refine ⟨?_, ?_, ?_, ?_, ?_, ?_, ?_, ?_, ?_, ?_, ?_, ?_, ?_⟩
    · simp [r6, two, ne]
    · simp [r6, two]
    · intro b hb
      simp only [List.mem_cons, List.not_mem_nil, or_false, not_or] at hb
      simp [r6, two, hb, pk]
    · simp [r6, two]
    · intro r hr
      have : r ≠ .r6 := by simpa using hr
      simpa [this] using g r hr
    · simp [← hs0, enterSupervisor]
    · simp [← hs0, enterSupervisor, f3]
    · simp [← hs0, enterSupervisor, f3, SameFlags]
    · simp [← hs0, enterSupervisor, f4]
    · simp [← hs0, enterSupervisor, f5]
    · simp
    · simp [← hs0, enterSupervisor, f7]
    · simp [← hs0, enterSupervisor, SameModel, f8, f9, f10]
  · exact ord _ (by simp [cfg]) _ h3
  · exact ord _ (by simp [cfg]) _ (by simp only [State.reg_poke, State.reg_setReg, if_true, r6, two]; exact h2)

end Sys2Proof.Machine
end

