-- ==== Sys2Proof/Laws/PerInstr.lean ====
section
/-! SUPPORT. One lemma per constructor of Instr: bits [15:12] of its word are the opcode of R74. -/

namespace Sys2Proof.Laws

/-- The opcode map of R74. -/
def OpcodeField.opcode : Instr → BitVec 4
  | .br _ _ _ _ => 0x0#4
  | .addReg _ _ _ => 0x1#4
  | .addImm _ _ _ => 0x1#4
  | .ld _ _ => 0x2#4
  | .st _ _ => 0x3#4
  | .jsr _ => 0x4#4
  | .jsrr _ => 0x4#4
  | .andReg _ _ _ => 0x5#4
  | .andImm _ _ _ => 0x5#4
  | .ldr _ _ _ => 0x6#4
  | .str _ _ _ => 0x7#4
  | .rti => 0x8#4
  | .not _ _ => 0x9#4
  | .ldi _ _ => 0xA#4
  | .sti _ _ => 0xB#4
  | .jmp _ => 0xC#4
  | .ret => 0xC#4
  | .reserved _ => 0xD#4
  | .lea _ _ => 0xE#4
  | .trap _ => 0xF#4
  | .getc => 0xF#4
  | .out => 0xF#4
  | .puts => 0xF#4
  | .inp => 0xF#4
  | .putsp => 0xF#4
  | .halt => 0xF#4

/-- The word of the instruction carries its opcode (R74). -/
def OpcodeField.Statement (i : Instr) : Prop := opcodeOf (encode i) = OpcodeField.opcode i

namespace OpcodeField

theorem addReg (dr sr1 sr2 : Reg) : Statement (.addReg dr sr1 sr2) := format6_opcode _ _ _ _
theorem addImm (dr sr1 : Reg) (imm5 : BitVec 5) : Statement (.addImm dr sr1 imm5) := format6_opcode _ _ _ _
theorem andReg (dr sr1 sr2 : Reg) : Statement (.andReg dr sr1 sr2) := format6_opcode _ _ _ _
theorem andImm (dr sr1 : Reg) (imm5 : BitVec 5) : Statement (.andImm dr sr1 imm5) := format6_opcode _ _ _ _
theorem not (dr sr : Reg) : Statement (.not dr sr) := format6_opcode _ _ _ _
theorem br (n z p : Bool) (off : BitVec 9) : Statement (.br n z p off) := format9_opcode _ _ _
theorem jmp (base : Reg) : Statement (.jmp base) := format6_opcode _ _ _ _
theorem ret : Statement .ret := format6_opcode _ _ _ _
theorem jsr (off : BitVec 11) : Statement (.jsr off) := format12_opcode _ _
theorem jsrr (base : Reg) : Statement (.jsrr base) := format6_opcode _ _ _ _
theorem ld (dr : Reg) (off : BitVec 9) : Statement (.ld dr off) := format9_opcode _ _ _
theorem ldi (dr : Reg) (off : BitVec 9) : Statement (.ldi dr off) := format9_opcode _ _ _
theorem ldr (dr base : Reg) (off : BitVec 6) : Statement (.ldr dr base off) := format6_opcode _ _ _ _
theorem lea (dr : Reg) (off : BitVec 9) : Statement (.lea dr off) := format9_opcode _ _ _
theorem st (sr : Reg) (off : BitVec 9) : Statement (.st sr off) := format9_opcode _ _ _
theorem sti (sr : Reg) (off : BitVec 9) : Statement (.sti sr off) := format9_opcode _ _ _
theorem str (sr base : Reg) (off : BitVec 6) : Statement (.str sr base off) := format6_opcode _ _ _ _
theorem rti : Statement .rti := format12_opcode _ _
theorem trap (vect : BitVec 8) : Statement (.trap vect) := format12_opcode _ _
theorem reserved (low : BitVec 12) : Statement (.reserved low) := format12_opcode _ _
theorem getc : Statement .getc := format12_opcode _ _
theorem out : Statement .out := format12_opcode _ _
theorem puts : Statement .puts := format12_opcode _ _
theorem inp : Statement .inp := format12_opcode _ _
theorem putsp : Statement .putsp := format12_opcode _ _
theorem halt : Statement .halt := format12_opcode _ _

end OpcodeField

end Sys2Proof.Laws
end

