-- ==== Sys2Proof/Laws/Step.lean ====
section
/-! SUPPORT. What the environment's turn, the choice among interrupts, the fetch, the wait for a character and one round can
do, said once. -/

namespace Sys2Proof.Machine

variable {s t u : State}

/-! ## The choice among interrupts -/

/-- Something is chosen exactly where there is something. -/
theorem choose_eq_none {l : List IntSource} {pick : Nat} : choose l pick = none ↔ l = [] := by
  match l with
  | [] => simp [choose]
  | [src] => simp [choose]
  | src :: other :: rest =>
    have h : pick % (rest.length + 2) < (src :: other :: rest).length := by
      simp only [List.length_cons]
      exact Nat.mod_lt pick (Nat.succ_pos _)
    simp [choose, List.getElem?_eq_getElem h]

/-- What is chosen is one of the list. -/
theorem mem_of_choose {l : List IntSource} {pick : Nat} {src : IntSource} (h : choose l pick = some src) : src ∈ l := by
  match l with
  | [] => simp [choose] at h
  | [x] => simp_all [choose]
  | x :: y :: rest => exact List.mem_of_getElem? h

/-- Each of the list is chosen by some number. -/
theorem exists_choose {l : List IntSource} {src : IntSource} (h : src ∈ l) : ∃ pick, choose l pick = some src := by
  match l with
  | [x] => exact ⟨0, by simp_all [choose]⟩
  | x :: y :: rest =>
    obtain ⟨n, hn, he⟩ := List.getElem_of_mem h
    have hn' : n < rest.length + 2 := by simpa only [List.length_cons] using hn
    exact ⟨n, by simp only [choose, Nat.mod_eq_of_lt hn', List.getElem?_eq_getElem hn, he]⟩

/-- The candidates of the highest priority. -/
theorem mem_highest {src : IntSource} : src ∈ s.highest ↔
    (src ∈ sources s.cfg ∧ requestHolds s src.request = true ∧ s.psr.pl < src.prio) ∧
      ∀ other ∈ sources s.cfg, requestHolds s other.request = true → s.psr.pl < other.prio → other.prio ≤ src.prio := by
  simp only [State.highest, State.candidates, List.mem_filter, List.all_eq_true, Bool.and_eq_true, decide_eq_true_eq]
  constructor
  · rintro ⟨h, hm⟩
    exact ⟨h, fun o h1 h2 h3 => hm o ⟨h1, h2, h3⟩⟩
  · rintro ⟨h, hm⟩
    exact ⟨h, fun o ho => hm o ho.1 ho.2.1 ho.2.2⟩

/-! ## The environment's turn -/

/-- The keyboard delivers its next characters in order; nothing else of the devices changes. -/
theorem deliverKeys_spec (n : Nat) (d : Devices) : ∃ typed, d.keyboard = typed ++ (deliverKeys n d).keyboard ∧
    typed.length = min n d.keyboard.length ∧
    deliverKeys n d = { d with
      keyboard := (deliverKeys n d).keyboard, kbdr := typed.getLastD d.kbdr,
      kbsrReady := d.kbsrReady || !typed.isEmpty } := by
  induction n generalizing d with
  | zero => exact ⟨[], by simp [deliverKeys]⟩
  | succ n ih =>
    obtain ⟨typed, h1, h2, h3⟩ := ih (deliverKey d)
    cases hk : d.keyboard with
    | nil =>
      have hd : deliverKey d = d := by simp [deliverKey, hk]
      rw [hd] at h1 h2 h3
      exact ⟨typed, by simpa [deliverKeys, hd, hk] using h1, by simpa [hk] using h2, by simpa [deliverKeys, hd] using h3⟩
    | cons c rest =>
      have hd : deliverKey d = { d with keyboard := rest, kbdr := c, kbsrReady := true } := by simp [deliverKey, hk]
      rw [hd] at h1 h2 h3
      refine ⟨c :: typed, by simpa [deliverKeys, hd] using h1, by simp at h2 ⊢; omega, ?_⟩
      rw [deliverKeys, hd]
      simp only [Bool.true_or] at h3
      rw [h3]
      cases typed <;> simp [List.getLastD]

/-! ## The wait for a character -/

/-- What a round of GETC or IN does: it returns the character there is, or goes on waiting. -/
theorem awaitKey_cases (k : KeyService) (s : State) :
    (s.dev.kbsrReady = true ∧ awaitKey k s = deliverTo k s) ∨
    (s.dev.kbsrReady = false ∧ awaitKey k s = .next (s.setWaiting (some k))) := by
  unfold awaitKey
  cases s.dev.kbsrReady <;> simp

/-! ## Fetch and round -/

/-- A fetch that gives an instruction has read its word at the PC. -/
theorem fetch_ok {i : Instr} (h : fetch s = .ok (i, t)) :
    ∃ w u, memRead s.pc s = .ok (w, u) ∧ decode w = .ok i ∧ t = u.setPc (s.pc + 1#16) := by
  unfold fetch at h
  split at h
  · cases h
  · rename_i p hp
    split at h
    · cases h
    · rename_i i' hd
      cases h
      exact ⟨p.1, p.2, hp, hd, rfl⟩

/-- All a round that answers a next state can be. -/
theorem step_cases (h : step s = .next t) : s.clockEnabled = true ∧
    ((∃ k, s.waiting = some k ∧ awaitKey k s.afterTurn = .next t) ∨
     (s.waiting = none ∧ ∃ src, s.afterTurn.accepted s.turn.pick = some src ∧
        initiate src.vec s.pc (some src.prio) s.afterTurn = .next t) ∨
     (s.waiting = none ∧ s.afterTurn.accepted s.turn.pick = none ∧
        ∃ i u, fetch s.afterTurn = .ok (i, u) ∧ exec i u = .next t)) := by
  unfold step openRound at h
  split at h
  · rename_i hc
    refine ⟨hc, ?_⟩
    split at h
    · rename_i k hk
      exact .inl ⟨k, hk, h⟩
    · rename_i hw
      split at h
      · rename_i src x he
        obtain ⟨h1, h2⟩ := Prod.mk.inj he
        subst h2
        exact .inr (.inl ⟨hw, src, h1, h⟩)
      · rename_i x he
        obtain ⟨h1, h2⟩ := Prod.mk.inj he
        subst h2
        unfold runInstruction at h
        split at h
        · cases h
        · rename_i p hp
          exact .inr (.inr ⟨hw, h1, p.1, p.2, hp, h⟩)
  · cases h

end Sys2Proof.Machine
end

