-- ==== Sys2Proof/Tests/Slice0.lean ====
section
/-! SUPPORT. Tests and witnesses. Expected results are from spec/95_test_vectors.md (the section is named) or computed
by hand from the rule named. -/

namespace Sys2Proof.Tests

open Sys2Proof Sys2Proof.Machine

/-! ## WellFormed: each check refuses a term -/

theorem test_wellFormed_refuses_jmp_r7 : (Instr.jmp .r7).wellFormed = false := by decide
theorem test_wellFormed_refuses_named_traps :
    (Instr.trap 0x20#8).wellFormed = false ∧ (Instr.trap 0x21#8).wellFormed = false ∧
    (Instr.trap 0x22#8).wellFormed = false ∧ (Instr.trap 0x23#8).wellFormed = false ∧
    (Instr.trap 0x24#8).wellFormed = false ∧ (Instr.trap 0x25#8).wellFormed = false := by decide
theorem test_wellFormed_keeps_the_others :
    (Instr.trap 0x1F#8).wellFormed = true ∧ (Instr.trap 0x26#8).wellFormed = true ∧
    (Instr.jmp .r6).wellFormed = true := by decide

/-! ## Decoding: words of section 1 and 2.1 -/

theorem test_decode_operate :
    decodeTableWord 16 0x14C4 = some (.addReg .r2 .r3 .r4) ∧ decodeTableWord 16 0x14E7 = some (.addImm .r2 .r3 7#5) ∧
    decodeTableWord 16 0x102F = some (.addImm .r0 .r0 0b01111#5) ∧
    decodeTableWord 16 0x54C4 = some (.andReg .r2 .r3 .r4) ∧ decodeTableWord 16 0x54E7 = some (.andImm .r2 .r3 7#5) ∧
    decodeTableWord 16 0x98BF = some (.not .r4 .r2) := by decide
theorem test_decode_control :
    decodeTableWord 16 0x0000 = some (.br false false false 0#9) ∧
    decodeTableWord 16 0x0FFF = some (.br true true true 0x1FF#9) ∧
    decodeTableWord 16 0x0800 = some (.br true false false 0#9) ∧
    decodeTableWord 16 0xC000 = some (.jmp .r0) ∧ decodeTableWord 16 0xC1C0 = some .ret ∧
    decodeTableWord 16 0x4FFF = some (.jsr 0x7FF#11) ∧ decodeTableWord 16 0x41C0 = some (.jsrr .r7) := by decide
theorem test_decode_load_and_store :
    decodeTableWord 16 0x2808 = some (.ld .r4 8#9) ∧ decodeTableWord 16 0xA808 = some (.ldi .r4 8#9) ∧
    decodeTableWord 16 0x6FFF = some (.ldr .r7 .r7 0x3F#6) ∧ decodeTableWord 16 0xE808 = some (.lea .r4 8#9) ∧
    decodeTableWord 16 0x3808 = some (.st .r4 8#9) ∧ decodeTableWord 16 0xB808 = some (.sti .r4 8#9) ∧
    decodeTableWord 16 0x7885 = some (.str .r4 .r2 5#6) := by decide
theorem test_decode_system :
    decodeTableWord 16 0x8000 = some .rti ∧ decodeTableWord 16 0xF0FF = some (.trap 0xFF#8) ∧
    decodeTableWord 16 0xF020 = some .getc ∧ decodeTableWord 16 0xF021 = some .out ∧
    decodeTableWord 16 0xF022 = some .puts ∧ decodeTableWord 16 0xF023 = some .inp ∧
    decodeTableWord 16 0xF024 = some .putsp ∧ decodeTableWord 16 0xF025 = some .halt ∧
    decodeTableWord 16 0xD000 = some (.reserved 0#12) ∧ decodeTableWord 16 0xDFFF = some (.reserved 0xFFF#12) := by decide
theorem test_decode_rejects :
    decodeTableWord 16 0x1008 = none ∧ decodeTableWord 16 0x5010 = none ∧ decodeTableWord 16 0x903E = none ∧
    decodeTableWord 16 0xC1C1 = none ∧ decodeTableWord 16 0xC3C0 = none ∧ decodeTableWord 16 0x4200 = none ∧
    decodeTableWord 16 0x4001 = none ∧ decodeTableWord 16 0x8001 = none ∧ decodeTableWord 16 0xF123 = none := by decide

/-! ## Small states -/

/-- The defaults of R5, with EXC_PC_SAVED and TRAP_MODE named. -/
def params (e : ExcPcSaved) (m : TrapMode) : Config where
  vecPriv := 0x00#8
  vecIllop := 0x01#8
  excPcSaved := e
  jsrrBaseRead := .afterLink
  intSources := []
  kbdInterrupt := false
  trapMode := m
  deviceLo := 0xFE00#16
  deviceHi := 0xFFFF#16

/-- The start state of spec/95_test_vectors.md: PC x3000, PSR x8002. -/
def start : State := State.launch { Launch.standard with cfg := params .next .vectored }

/-- The same with TRAP_MODE abstract and a character that comes before the first round. -/
def startAbstract : State :=
  State.launch { Launch.standard with
    cfg := params .next .abstract, keyboard := [0x7A#8], schedule := [⟨1, false, none, 0⟩] }

/-- A start state with a PC and a PSR. -/
def startAt (pc psr : Word) : State := (start.setPc pc).setPsr (Psr.ofWord psr)

/-- The state after the round that runs one word. -/
def ran (w : Nat) (s : State) : Option State :=
  match step (s.withFetchWord 16 w) with
  | .next t => some t
  | _ => none

/-- The refusal of the round that runs one word. -/
def stopped (w : Nat) (s : State) : Option Refusal :=
  match step (s.withFetchWord 16 w) with
  | .refused r => some r
  | _ => none

/-! ## One step of each instruction: sections 1 and 2.2 to 2.7 -/

theorem test_addReg_overflow :
    (ran 0x14C4 ((start.setReg .r3 0x7FFF#16).setReg .r4 1#16)).map (fun t => (t.reg .r2, t.psr.toWord, t.pc)) =
      some (0x8000#16, 0x8004#16, 0x3001#16) := by decide
theorem test_addReg_same_register :
    (ran 0x1241 (start.setReg .r1 0x4000#16)).map (fun t => (t.reg .r1, t.psr.toWord)) =
      some (0x8000#16, 0x8004#16) := by decide
theorem test_addImm_least_immediate :
    (ran 0x1030 (start.setReg .r0 0x0010#16)).map (fun t => (t.reg .r0, t.psr.toWord)) = some (0#16, 0x8002#16) := by decide
theorem test_addImm_greatest_immediate :
    (ran 0x102F (start.setReg .r0 0x7FF1#16)).map (fun t => (t.reg .r0, t.psr.toWord)) =
      some (0x8000#16, 0x8004#16) := by decide
theorem test_andReg :
    (ran 0x54C4 ((start.setReg .r3 0x0F0F#16).setReg .r4 0x00FF#16)).map (fun t => (t.reg .r2, t.psr.toWord)) =
      some (0x000F#16, 0x8001#16) := by decide
theorem test_andImm_sign_extends :
    (ran 0x52B0 (start.setReg .r2 0x12FF#16)).map (fun t => (t.reg .r1, t.psr.toWord)) =
      some (0x12F0#16, 0x8001#16) := by decide
theorem test_not :
    (ran 0x98BF (start.setReg .r2 0x00FF#16)).map (fun t => (t.reg .r4, t.psr.toWord)) =
      some (0xFF00#16, 0x8004#16) := by decide
theorem test_not_of_the_source_itself :
    (ran 0x927F (start.setReg .r1 0x5555#16)).map (fun t => (t.reg .r1, t.psr.toWord)) =
      some (0xAAAA#16, 0x8004#16) := by decide
theorem test_br_taken_by_each_code :
    ((ran 0x0805 (startAt 0x3000#16 0x8004#16)).map (·.pc), (ran 0x0405 (startAt 0x3000#16 0x8002#16)).map (·.pc),
      (ran 0x0205 (startAt 0x3000#16 0x8001#16)).map (·.pc), (ran 0x0C05 (startAt 0x3000#16 0x8001#16)).map (·.pc),
      (ran 0x0E05 (startAt 0x3000#16 0x8000#16)).map (·.pc)) =
    (some 0x3006#16, some 0x3006#16, some 0x3006#16, some 0x3001#16, some 0x3001#16) := by decide
theorem test_br_reach :
    ((ran 0x0F00 start).map (·.pc), (ran 0x0EFF start).map (·.pc), (ran 0x0FFF start).map (·.pc)) =
    (some 0x2F01#16, some 0x3100#16, some 0x3000#16) := by decide
theorem test_jmp :
    (ran 0xC080 ((start.setReg .r2 0x4000#16).setReg .r7 0x1111#16)).map (fun t => (t.pc, t.reg .r7)) =
      some (0x4000#16, 0x1111#16) := by decide
theorem test_ret : (ran 0xC1C0 (start.setReg .r7 0x3004#16)).map (fun t => (t.pc, t.reg .r7)) =
    some (0x3004#16, 0x3004#16) := by decide
theorem test_jsr : (ran 0x4807 (startAt 0x3003#16 0x8002#16)).map (fun t => (t.pc, t.reg .r7)) =
    some (0x300B#16, 0x3004#16) := by decide
theorem test_jsr_reach : ((ran 0x4C00 start).map (·.pc), (ran 0x4BFF start).map (·.pc)) =
    (some 0x2C01#16, some 0x3400#16) := by decide
theorem test_jsrr : (ran 0x40C0 ((startAt 0x3007#16 0x8002#16).setReg .r3 0x300B#16)).map (fun t => (t.pc, t.reg .r7)) =
    some (0x300B#16, 0x3008#16) := by decide
theorem test_jsrr_r7_both_orders :
    ((ran 0x41C0 (start.setReg .r7 0x5000#16)).map (·.pc),
      (ran 0x41C0 { start.setReg .r7 0x5000#16 with cfg := { start.cfg with jsrrBaseRead := .beforeLink } }).map (·.pc)) =
    (some 0x3001#16, some 0x5000#16) := by decide
theorem test_ld_of_its_own_word : (ran 0x29FF start).map (fun t => (t.reg .r4, t.psr.toWord)) =
    some (0x29FF#16, 0x8001#16) := by decide
theorem test_ld_reach : (ran 0x28FF (start.poke 0x3100#16 0x0042#16)).map (fun t => (t.reg .r4, t.psr.toWord)) =
    some (0x0042#16, 0x8001#16) := by decide
theorem test_ldi :
    (ran 0xA808 ((start.poke 0x3009#16 0x4000#16).poke 0x4000#16 7#16)).map (fun t => (t.reg .r4, t.psr.toWord)) =
      some (7#16, 0x8001#16) := by decide
theorem test_ldi_of_kbdr_clears_ready :
    (ran 0xA008 ((start.poke 0x3009#16 0xFE02#16).setDev { start.dev with kbsrReady := true, kbdr := 0x61#8 })).map
      (fun t => (t.reg .r0, t.dev.kbsrReady)) = some (0x0061#16, false) := by decide
theorem test_ldr_wraps :
    (ran 0x6881 ((start.setReg .r2 0xFFFF#16).poke 0#16 0x0123#16)).map (fun t => t.reg .r4) =
      some 0x0123#16 := by decide
theorem test_ldr_of_mcr : (ran 0x6881 (start.setReg .r2 0xFFFD#16)).map (fun t => (t.reg .r4, t.psr.toWord)) =
    some (0x8000#16, 0x8004#16) := by decide
theorem test_lea_wraps : (ran 0xE900 (startAt 0x0080#16 0x8002#16)).map (fun t => (t.reg .r4, t.psr.toWord)) =
    some (0xFF81#16, 0x8004#16) := by decide
theorem test_lea : (ran 0xE808 start).map (fun t => (t.reg .r4, t.psr.toWord)) = some (0x3009#16, 0x8001#16) := by decide
theorem test_st : (ran 0x3808 (start.setReg .r4 0xCAFE#16)).map (fun t => (t.peek 0x3009#16, t.psr.toWord)) =
    some (0xCAFE#16, 0x8002#16) := by decide
theorem test_st_of_the_next_word : (ran 0x3800 (start.setReg .r4 0x1021#16)).map (fun t => t.peek t.pc) =
    some 0x1021#16 := by decide
theorem test_sti_stops_the_clock :
    (ran 0xB808 ((start.poke 0x3009#16 0xFFFE#16).setReg .r4 0x7FFF#16)).map (fun t => (t.dev.mcr, t.pc)) =
      some (0x7FFF#16, 0x3001#16) := by decide
theorem test_sti_displays :
    (ran 0xB008 (((start.poke 0x3009#16 0xFE06#16).setReg .r0 0x0141#16).setDev { start.dev with dsrReady := true })).map
      (fun t => (t.dev.display, t.dev.dsrReady)) = some ([0x41#8], false) := by decide
theorem test_str : (ran 0x7885 ((start.setReg .r4 0xCAFE#16).setReg .r2 0x4000#16)).map (fun t => t.peek 0x4005#16) =
    some 0xCAFE#16 := by decide
theorem test_str_of_the_base :
    (ran 0x7DBF (start.setReg .r6 0x4000#16)).map (fun t => (t.peek 0x3FFF#16, t.reg .r6)) =
      some (0x4000#16, 0x4000#16) := by decide
theorem test_rti_to_user_mode :
    (ran 0x8000 (((((startAt 0x0521#16 0x0001#16).setReg .r6 0x2FFE#16).setSavedUsp 0xBFFF#16).poke 0x2FFE#16
      0x3003#16).poke 0x2FFF#16 0xFFFF#16)).map (fun t => (t.pc, t.psr.toWord, t.savedSsp, t.reg .r6)) =
    some (0x3003#16, 0x8707#16, 0x3000#16, 0xBFFF#16) := by decide
theorem test_rti_in_user_mode :
    (ran 0x8000 (((startAt 0x3001#16 0x8001#16).setReg .r6 0xEFFF#16).poke 0x0100#16 0x0500#16)).map
      (fun t => (t.pc, t.psr.toWord, t.savedUsp, t.reg .r6, t.peek 0x2FFF#16, t.peek 0x2FFE#16)) =
    some (0x0500#16, 0x0001#16, 0xEFFF#16, 0x2FFE#16, 0x8001#16, 0x3002#16) := by decide
theorem test_trap :
    (ran 0xF0FF (start.poke 0x00FF#16 0x1234#16)).map (fun t => (t.pc, t.reg .r7, t.psr.toWord)) =
      some (0x1234#16, 0x3001#16, 0x8002#16) := by decide
theorem test_reserved_in_supervisor_mode :
    (ran 0xDFFF ((((startAt 0x0600#16 0x0302#16).setReg .r6 0x2FF0#16).poke 0x0101#16 0x0520#16))).map
      (fun t => (t.pc, t.psr.toWord, t.reg .r6, t.peek 0x2FEF#16, t.peek 0x2FEE#16)) =
    some (0x0520#16, 0x0302#16, 0x2FEE#16, 0x0302#16, 0x0601#16) := by decide
theorem test_reserved_saves_the_faulting_pc :
    (ran 0xD000 { (startAt 0x3002#16 0x8004#16).poke 0x0101#16 0x0520#16 with cfg := params .faulting .vectored }).map
      (fun t => (t.pc, t.peek 0x2FFE#16)) = some (0x0520#16, 0x3002#16) := by decide
theorem test_getc : (ran 0xF020 startAbstract).map (fun t => (t.reg .r0, t.reg .r7, t.pc, t.dev.display)) =
    some (0x007A#16, 0x3001#16, 0x3001#16, []) := by decide
theorem test_out : (ran 0xF021 (startAbstract.setReg .r0 0x0141#16)).map (fun t => (t.reg .r7, t.dev.display)) =
    some (0x3001#16, [0x41#8]) := by decide
theorem test_puts :
    (ran 0xF022 ((((startAbstract.setReg .r0 0x4000#16).poke 0x4000#16 0x0048#16).poke 0x4001#16 0x0169#16))).map
      (fun t => (t.pc, t.dev.display)) = some (0x3001#16, [0x48#8, 0x69#8]) := by decide
theorem test_inp : (ran 0xF023 startAbstract).map (fun t => (t.reg .r0, t.reg .r7)) =
    some (0x007A#16, 0x3001#16) := by decide
/-- R164: the prompt is shown before the character comes, and the round that brings it returns to R7. -/
theorem test_inp_waits :
    (ran 0xF023 { startAbstract with schedule := [] }).map (fun t => (t.waiting, t.reg .r7, t.pc, t.dev.keyboard)) =
      some (some .inp, 0x3001#16, 0x3001#16, [0x7A#8]) := by decide
theorem test_waiting_call_returns :
    (match step ((startAbstract.setReg .r7 0x4000#16).setWaiting (some .getc)) with
      | .next t => some (t.pc, t.reg .r0, t.waiting)
      | _ => none) = some (0x4000#16, 0x007A#16, none) := by decide
theorem test_putsp :
    (ran 0xF024 ((((startAbstract.setReg .r0 0x4000#16).poke 0x4000#16 0x6548#16).poke 0x4001#16 0x6C6C#16).poke
      0x4002#16 0x006F#16)).map (fun t => t.dev.display) =
    some [0x48#8, 0x65#8, 0x6C#8, 0x6C#8, 0x6F#8] := by decide
theorem test_halt : (ran 0xF025 startAbstract).map (fun t => t.reg .r7) = some 0x3001#16 := by decide
theorem test_halt_clears_the_clock (s : State) :
    ∃ t, haltService s = .next t ∧ t.clockEnabled = false := ⟨_, rfl, by show (_ &&& (0x7FFF#16 : Word)).getLsbD 15 = false; simp⟩
theorem test_named_trap_vectored :
    (ran 0xF023 ((start.poke 0x0023#16 0x04A0#16).setReg .r7 0x9999#16)).map (fun t => (t.pc, t.reg .r7)) =
      some (0x04A0#16, 0x3001#16) := by decide

/-! ## Stops and the interrupt: sections 2.4 to 2.6 -/

theorem test_stops :
    (stopped 0xA008 (start.poke 0x3009#16 0xFE01#16), stopped 0xB008 { start.poke 0x3009#16 0xFE06#16 with schedule := [⟨0, false, none, 0⟩] },
      stopped 0xB008 (start.poke 0x3009#16 0xFE02#16),
      stopped 0xB008 ((start.poke 0x3009#16 0xFE00#16).setReg .r0 0x4000#16), stopped 0x1008 start) =
    (some (.deviceHole 0xFE01#16), some .displayBusy, some (.readOnlyDevice 0xFE02#16), some .keyboardInterruptAbsent,
      some (.nonCanonicalWord 0x1008#16)) := by decide

/-- An interrupt source of vector x80 and priority 4 that requests. -/
def requesting : State :=
  { (startAt 0x3005#16 0x8002#16).setReg .r6 0xBFFF#16 with
    cfg := { params .next .vectored with intSources := [⟨0x80#8, 4#3, .dsrReady⟩] } }

theorem test_interrupt :
    (ran 0x1000 (requesting.poke 0x0180#16 0x0600#16)).map
      (fun t => (t.pc, t.psr.toWord, t.savedUsp, t.reg .r6, t.peek 0x2FFF#16, t.peek 0x2FFE#16)) =
    some (0x0600#16, 0x0402#16, 0xBFFF#16, 0x2FFE#16, 0x8002#16, 0x3005#16) := by decide
theorem test_interrupt_masked_by_equal_priority :
    (ran 0x1000 (requesting.setPsr (Psr.ofWord 0x0402#16))).map (·.pc) = some 0x3006#16 := by decide

/-! ## Witnesses: for each statement with hypotheses, a state and operands that meet them (each clause) -/

/-- `start` at the moment an instruction is performed: the PC is the incremented one. -/
def at1 : State := start.setPc 0x3001#16

/-- `at1` in TRAP_MODE abstract, without a character to come. -/
def silent : State := { at1 with cfg := params .next .abstract }

/-- `at1` in Supervisor mode with R6 as given. -/
def supervisor (sp : Word) : State := (at1.setPsr (Psr.ofWord 0x0002#16)).setReg .r6 sp

theorem witness_DecodeOfEncodeIsTheInstruction :
    (Instr.jmp .r6).wellFormed = true ∧ (Instr.trap 0xFF#8).wellFormed = true ∧
    (Instr.ldr .r7 .r7 0x3F#6).wellFormed = true := by decide
theorem witness_EncodeOfDecodeIsTheWord :
    decode 0x0000#16 = .ok (.br false false false 0#9) ∧ decode 0xF0FF#16 = .ok (.trap 0xFF#8) := ⟨rfl, rfl⟩
theorem witness_SignExtensionOfAField : 0 < 1 ∧ 1 < 16 ∧ 0 < 15 ∧ 15 < 16 ∧ 0 < 11 ∧ 11 < 16 := by decide
theorem witness_ZeroExtensionOfAField : 0 < 16 ∧ 8 < 16 ∧ 15 < 16 := by decide
theorem witness_PrivilegeModeIsPsrBit15 :
    at1.psr.toWord.getLsbD 15 = true ∧ (supervisor 0x2FFE#16).psr.toWord.getLsbD 15 = false := by decide
theorem witness_CallsLeaveTheReturnAddressInR7 :
    (∃ t, exec (.jsr 0x7FF#11) at1 = .next t) ∧ (∃ t, exec (.jsrr .r7) at1 = .next t) ∧
    (∃ t, exec (.trap 0xFF#8) at1 = .next t) ∧ (∃ t, exec .halt at1 = .next t) ∧ (.halt, 0x25#8) ∈ namedTraps ∧
    at1.cfg.trapMode = .vectored ∧ (at1.setReg .r7 0x3001#16).reg .r7 = 0x3001#16 :=
  ⟨⟨_, rfl⟩, ⟨_, rfl⟩, ⟨_, rfl⟩, ⟨_, rfl⟩, by decide, rfl, rfl⟩
/-- The addresses at the ends of the clauses of R53 and R54. -/
theorem witness_MemReadFollowsTheMap :
    ([0xFE01#16, 0xFE05#16, 0xFE07#16, 0xFFFD#16, 0xFFFF#16].all fun a =>
      !isDeviceRegister a && decide (at1.cfg.deviceLo ≤ a) && decide (a ≤ at1.cfg.deviceHi)) = true ∧
    ([0x0000#16, 0xFDFF#16].all fun a => !isDeviceRegister a && !decide (at1.cfg.deviceLo ≤ a)) = true := by decide
theorem witness_MemWriteFollowsTheMap :
    at1.dev.dsrReady = false ∧ (at1.setDev { at1.dev with dsrReady := true }).dev.dsrReady = true ∧
    at1.cfg.kbdInterrupt = false ∧ (0xBFFF#16 : Word).getLsbD 14 = false ∧ (0x4000#16 : Word).getLsbD 14 = true ∧
    ({ at1 with cfg := { at1.cfg with kbdInterrupt := true } } : State).cfg.kbdInterrupt = true := by decide
theorem witness_LdLoadsPcRelative :
    (startAt 0xFD00#16 0x8002#16).ordinary (pcRelative (startAt 0xFD00#16 0x8002#16) 0x0FF#9) = true ∧
    (startAt 0xFDFF#16 0x8002#16).readable (pcRelative (startAt 0xFDFF#16 0x8002#16) 1#9) = true ∧
    (startAt 0xFDFF#16 0x8002#16).readable (pcRelative (startAt 0xFDFF#16 0x8002#16) 2#9) = false := by decide
theorem witness_LdiLoadsThroughThePointer :
    at1.ordinary (pcRelative at1 8#9) = true ∧ at1.ordinary (at1.peek (pcRelative at1 8#9)) = true ∧
    (at1.poke 0x3009#16 0xFFFE#16).readable 0xFFFE#16 = true ∧
    memRead (pcRelative at1 8#9) (at1.poke 0x3009#16 0xFFFF#16) = .ok (0xFFFF#16, at1.poke 0x3009#16 0xFFFF#16) ∧
    (at1.poke 0x3009#16 0xFFFF#16).readable 0xFFFF#16 = false ∧
    (startAt 0xFFFF#16 0x8002#16).readable (pcRelative (startAt 0xFFFF#16 0x8002#16) 0#9) = false :=
  ⟨by decide, by decide, by decide, rfl, by decide, by decide⟩
theorem witness_LdrLoadsBaseOffset :
    (at1.setReg .r2 0xFDE0#16).ordinary (baseOffset (at1.setReg .r2 0xFDE0#16) .r2 0x1F#6) = true ∧
    (at1.setReg .r2 0xFDE1#16).readable (baseOffset (at1.setReg .r2 0xFDE1#16) .r2 0x1F#6) = true ∧
    (at1.setReg .r2 0x0000#16).readable (baseOffset (at1.setReg .r2 0x0000#16) .r2 0x3F#6) = false := by decide
theorem witness_PollingShowsTheReadyBitInN :
    (at1.poke 0x3009#16 0xFE00#16).ordinary (pcRelative (at1.poke 0x3009#16 0xFE00#16) 8#9) = true ∧
    (at1.poke 0x3009#16 0xFE00#16).peek (pcRelative (at1.poke 0x3009#16 0xFE00#16) 8#9) = 0xFE00#16 ∧
    (at1.poke 0x3009#16 0xFE04#16).peek (pcRelative (at1.poke 0x3009#16 0xFE04#16) 8#9) = 0xFE04#16 := by decide
theorem witness_StStoresPcRelative :
    at1.ordinary (pcRelative at1 0x100#9) = true ∧
    (startAt 0xFFFE#16 0x8002#16).writable (pcRelative (startAt 0xFFFE#16 0x8002#16) 0#9) 0#16 = true ∧
    (startAt 0xFFFF#16 0x8002#16).writable (pcRelative (startAt 0xFFFF#16 0x8002#16) 0#9) 0#16 = false ∧
    (startAt 0xFE02#16 0x8002#16).writable (pcRelative (startAt 0xFE02#16 0x8002#16) 0#9) 0#16 = false := by decide
theorem witness_StiStoresThroughThePointer :
    at1.ordinary (pcRelative at1 8#9) = true ∧ at1.ordinary (at1.peek (pcRelative at1 8#9)) = true ∧
    at1.readable (pcRelative at1 8#9) = true ∧ at1.writable 0xFFFE#16 0#16 = true ∧
    at1.writable 0xFE06#16 0x41#16 = false ∧ at1.writable 0xFE00#16 0x4000#16 = false ∧
    (startAt 0xFE07#16 0x8002#16).readable (pcRelative (startAt 0xFE07#16 0x8002#16) 0#9) = false := by decide
theorem witness_StrStoresBaseOffset :
    (at1.setReg .r2 0xFDE0#16).ordinary (baseOffset (at1.setReg .r2 0xFDE0#16) .r2 0x1F#6) = true ∧
    (at1.setReg .r2 0xFFFF#16).writable (baseOffset (at1.setReg .r2 0xFFFF#16) .r2 0x3F#6) 0#16 = true ∧
    (at1.setReg .r2 0xFFFF#16).writable (baseOffset (at1.setReg .r2 0xFFFF#16) .r2 0#6) 0#16 = false := by decide
theorem witness_StoreIsSeenByTheNextFetch :
    at1.ordinary (pcRelative at1 0#9) = true ∧ pcRelative at1 0#9 = at1.pc ∧
    memRead (pcRelative at1 8#9) (at1.poke 0x3009#16 0xFDFF#16) = .ok (0xFDFF#16, at1.poke 0x3009#16 0xFDFF#16) ∧
    at1.ordinary 0xFDFF#16 = true ∧ baseOffset (at1.setReg .r2 0xFFFF#16) .r2 1#6 = 0#16 ∧ at1.ordinary 0#16 = true ∧
    decode ((at1.setReg .r4 0x1021#16).reg .r4) = .ok (.addImm .r0 .r0 1#5) :=
  ⟨by decide, by decide, rfl, by decide, by decide, by decide, rfl⟩
theorem witness_RtiInSupervisorModeRestores :
    (supervisor 0x2FFE#16).psr.mode = .supervisor ∧
    (supervisor 0xFDFE#16).ordinary 0xFDFE#16 = true ∧ (supervisor 0xFDFE#16).ordinary (0xFDFE#16 + 1#16) = true ∧
    (supervisor 0xFDFF#16).readable 0xFDFF#16 = true ∧ (supervisor 0xFDFF#16).readable (0xFDFF#16 + 1#16) = true ∧
    (supervisor 0xFFFE#16).readable 0xFFFE#16 = true ∧ (supervisor 0xFFFE#16).readable (0xFFFE#16 + 1#16) = false ∧
    (supervisor 0xFFFF#16).readable 0xFFFF#16 = false := by decide
theorem witness_RtiInUserModeTakesTheViolation :
    at1.psr.mode = .user ∧ at1.canEnter at1.cfg.vecPriv = true := by decide
theorem witness_ReservedOpcodeTakesTheIllegalOpcode :
    at1.canEnter at1.cfg.vecIllop = true ∧ (supervisor 0x0001#16).canEnter at1.cfg.vecIllop = false ∧
    (supervisor 0x0002#16).canEnter at1.cfg.vecIllop = true := by decide
theorem witness_InterruptAcceptanceRule :
    requesting.afterTurn.accepted 0 = some ⟨0x80#8, 4#3, .dsrReady⟩ ∧
    (⟨0x80#8, 4#3, .dsrReady⟩ : IntSource) ∈ sources requesting.afterTurn.cfg ∧
    requestHolds requesting.afterTurn .dsrReady = true ∧ requesting.afterTurn.psr.pl < 4#3 ∧
    (∀ other ∈ sources requesting.afterTurn.cfg, requestHolds requesting.afterTurn other.request = true →
      other.prio ≤ 4#3) ∧ at1.accepted 0 = none := by decide
theorem witness_AcceptedInterruptIsInitiated :
    requesting.clockEnabled = true ∧ requesting.waiting = none ∧
    requesting.afterTurn.accepted requesting.turn.pick = some ⟨0x80#8, 4#3, .dsrReady⟩ ∧
    requesting.afterTurn.canEnter 0x80#8 = true := by decide
theorem witness_RtiUndoesInitiation :
    at1.canEnter 0x80#8 = true ∧ (∃ t, initiate 0x80#8 at1.pc (some 4#3) at1 = .next t) ∧
    (supervisor 0x2FFE#16).canEnter 0x01#8 = true ∧
    ∃ t, initiate 0x01#8 at1.pc none (supervisor 0x2FFE#16) = .next t := ⟨by decide, ⟨_, rfl⟩, by decide, _, rfl⟩
/-- A vector table entry in a hole takes a DEVICE_RANGE that reaches down to the table. -/
theorem witness_TrapEntersThroughTheVectorTable :
    at1.cfg.trapMode = .vectored ∧ at1.ordinary (trapEntry 0xFF#8) = true ∧ silent.ordinary (trapEntry 0x1F#8) = true ∧
    (0x1F#8 : BitVec 8).toNat < 0x20 ∧ 0x25 < (0x26#8 : BitVec 8).toNat ∧
    ({ at1 with cfg := { at1.cfg with deviceLo := 0#16 } } : State).ordinary (trapEntry 0#8) = false := by decide
theorem witness_NamedTrapsAreTrapWithTheirVector :
    (.getc, 0x20#8) ∈ namedTraps ∧ (.halt, 0x25#8) ∈ namedTraps ∧ at1.cfg.trapMode = .vectored ∧
    at1.ordinary (trapEntry 0x20#8) = true := by decide
theorem witness_GetcReturnsTheCharacter :
    silent.cfg.trapMode = .abstract ∧ silent.dev.kbsrReady = false ∧
    (silent.setDev { silent.dev with kbsrReady := true }).dev.kbsrReady = true ∧
    (startAbstract.setWaiting (some .getc)).clockEnabled = true ∧
    (startAbstract.setWaiting (some .getc)).afterTurn.dev.kbsrReady = true ∧
    (silent.setWaiting (some .getc)).clockEnabled = true ∧
    (silent.setWaiting (some .getc)).afterTurn.dev.kbsrReady = false := by decide
theorem witness_OutShowsTheCharacter : silent.cfg.trapMode = .abstract := by decide
theorem witness_PutsShowsTheString :
    silent.cfg.trapMode = .abstract ∧ StringAt silent (silent.reg .r0) [] ∧
    StringAt (silent.poke 0#16 0x0148#16) 0#16 [0x0148#16] ∧
    NoStringAt ((silent.poke 0xFDFF#16 0x41#16).setReg .r0 0xFDFF#16) 1 0xFDFF#16 := by
  refine ⟨rfl, ⟨by decide, by decide⟩, ⟨by decide, by decide, by decide, by decide, by decide, by decide⟩,
    by decide, by decide, .inr ?_⟩
  exact (by decide : ((silent.poke 0xFDFF#16 0x41#16).setReg .r0 0xFDFF#16).ordinary (0xFDFF#16 + 1#16) = false)
theorem witness_InEchoesTheCharacter :
    silent.cfg.trapMode = .abstract ∧ silent.dev.kbsrReady = false ∧
    (silent.setDev { silent.dev with kbsrReady := true }).dev.kbsrReady = true ∧
    (startAbstract.setWaiting (some .inp)).clockEnabled = true ∧
    (startAbstract.setWaiting (some .inp)).afterTurn.dev.kbsrReady = true ∧
    (silent.setWaiting (some .inp)).clockEnabled = true ∧
    (silent.setWaiting (some .inp)).afterTurn.dev.kbsrReady = false := by decide
theorem witness_PutspShowsThePackedString :
    silent.cfg.trapMode = .abstract ∧ StringAt (silent.poke 0#16 0x6548#16) 0#16 [0x6548#16] ∧
    (0x6548#16 : Word).toNat % 256 ≠ 0 ∧ StringAt (silent.poke 0#16 0x4100#16) 0#16 [0x4100#16] ∧
    (0x4100#16 : Word).toNat % 256 = 0 ∧ NoStringAt silent 0 0xFE00#16 :=
  ⟨rfl, ⟨by decide, by decide, by decide, by decide, by decide, by decide⟩, by decide,
    ⟨by decide, by decide, by decide, by decide, by decide, by decide⟩, by decide,
    (by decide : silent.ordinary 0xFE00#16 = false)⟩
theorem witness_HaltStopsTheProcessor : silent.cfg.trapMode = .abstract := by decide
theorem witness_StepRunsTheDecodedInstruction :
    start.clockEnabled = true ∧ start.waiting = none ∧ start.afterTurn.accepted start.turn.pick = none ∧
    memRead start.pc start.afterTurn = .ok (0x0000#16, start.afterTurn) ∧
    decode 0x0000#16 = .ok (.br false false false 0#9) := ⟨by decide, rfl, by decide, rfl, rfl⟩
theorem witness_StepRefusesWhatIsNoInstruction :
    memRead start.pc (start.poke 0x3000#16 0x1008#16).afterTurn =
      .ok (0x1008#16, (start.poke 0x3000#16 0x1008#16).afterTurn) ∧
    decode 0x1008#16 = .error (.fixedBits 0x1008#16) ∧ (start.setPc 0xFFFF#16).clockEnabled = true ∧
    (start.setPc 0xFFFF#16).waiting = none ∧
    (start.setPc 0xFFFF#16).afterTurn.accepted (start.setPc 0xFFFF#16).turn.pick = none ∧ (start.setPc 0xFFFF#16).readable 0xFFFF#16 = false :=
  ⟨rfl, rfl, by decide, rfl, by decide, by decide⟩
theorem witness_OnlyStoresStopTheClock :
    startAbstract.clockEnabled = true ∧
    ∃ t, exec (.str .r0 .r1 0#6) (at1.setReg .r1 0xFFFE#16) = .next t ∧ t.clockEnabled = false :=
  ⟨by decide, _, rfl, by decide⟩
theorem witness_OnlyMarkedInstructionsChangeTheFlags :
    setsFlags (.st .r0 0#9) = false ∧ (.st .r0 0#9 : Instr) ≠ .rti ∧ at1.cfg.trapMode = .vectored ∧
    ∃ t, exec (.st .r0 0#9) at1 = .next t := ⟨rfl, by decide, rfl, _, rfl⟩
theorem witness_PrivilegeModeChangers :
    (∃ t, exec .rti at1 = .next t ∧ t.psr.mode ≠ at1.psr.mode) ∧
    (∃ t, exec .rti ((supervisor 0x2FFE#16).poke 0x2FFF#16 0x8000#16) = .next t ∧ t.psr.mode ≠ .supervisor) ∧
    (∃ t, step requesting = .next t ∧ t.psr.mode ≠ requesting.psr.mode) ∧
    (∃ t, exec (.trap 0xFF#8) at1 = .next t) ∧ ∃ t, initiate 0x80#8 at1.pc none at1 = .next t :=
  ⟨⟨_, rfl, by decide⟩, ⟨_, rfl, by decide⟩, ⟨_, rfl, by decide⟩, ⟨_, rfl⟩, _, rfl⟩
theorem witness_PrivilegeModeMattersOnlyToRti :
    (.trap 0xFF#8 : Instr) ≠ .rti ∧ (∀ low, (.trap 0xFF#8 : Instr) ≠ .reserved low) ∧
    (∃ t, exec (.trap 0xFF#8) at1 = .next t) ∧
    exec (.ldr .r0 .r1 0#6) (at1.setReg .r1 0xFE01#16) = .refused (.deviceHole 0xFE01#16) :=
  ⟨by decide, fun _ => by simp, ⟨_, rfl⟩, rfl⟩
theorem witness_StepKeepsTheInvariant :
    State.reset.inv = true ∧ (start.poke 0xFDFF#16 1#16).inv = true ∧ ∃ t, step start = .next t :=
  ⟨by decide, by decide, _, rfl⟩
theorem witness_LaunchMeetsTheInvariant : Memory.wf [(0x0000, 1#16), (0xFFFF, 0x1234#16)] = true := by decide
/-- Log 26: a source whose predicate the launch devices meet requests at the launch; no line is raised. -/
theorem test_launch_requests :
    requestHolds (State.launch { Launch.standard with dsrReady := true }) .dsrReady = true ∧
    requestHolds State.reset (.no (.line 0)) = true ∧ requestHolds State.reset (.line 0) = false := by decide
/-- R182, log 13: a predicate over DDR sees the character last accepted: x41 has bits 0 and 6. -/
theorem test_request_over_ddr :
    (ran 0xB008 (((start.poke 0x3009#16 0xFE06#16).setReg .r0 0x0141#16).setDev { start.dev with dsrReady := true })).map
      (fun t => (requestHolds t (.ddrBit 6), requestHolds t (.ddrBit 1))) = some (true, false) := by decide
theorem witness_StepKeepsTheParameters : ∃ t, step start = .next t := ⟨_, rfl⟩
theorem witness_DisplayStreamOnlyGrows : ∃ t, step start = .next t := ⟨_, rfl⟩
theorem witness_EnvironmentTouchesOnlyDevices :
    (start.setDev { start.dev with dsrReady := true }).dev.dsrReady = true := by decide
/-- The second clause of each pair is reached: the first push, the second push and the table read, answered and refused. -/
theorem witness_EntriesMakeOrdinaryAccesses :
    at1.psr.mode = .user ∧ requesting.clockEnabled = true ∧ requesting.waiting = none ∧
    requesting.afterTurn.accepted requesting.turn.pick = some ⟨0x80#8, 4#3, .dsrReady⟩ ∧
    (∃ u, memWrite ((supervisor 0xFFFF#16).ssp - 1#16) 0x0002#16 (supervisor 0xFFFF#16) = .ok u) ∧
    memWrite ((supervisor 0xFFFF#16).ssp - 2#16) 0x3001#16 (supervisor 0xFFFF#16) = .error (.deviceHole 0xFFFD#16) ∧
    memWrite ((supervisor 0xFE02#16).ssp - 1#16) 0x0002#16 (supervisor 0xFE02#16) = .error (.deviceHole 0xFE01#16) ∧
    (∃ u, memWrite ((supervisor 0xFE01#16).ssp - 2#16) 0x3001#16 (supervisor 0xFE01#16) = .ok u) ∧
    (∃ p, memRead (vectorEntry 0xFF#8) at1 = .ok p) ∧
    memRead (vectorEntry 0xFF#8) { at1 with cfg := { at1.cfg with deviceLo := 0#16 } } = .error (.deviceHole 0x01FF#16) :=
  ⟨rfl, by decide, rfl, by decide, ⟨_, rfl⟩, rfl, rfl, ⟨_, rfl⟩, ⟨_, rfl⟩, rfl⟩

end Sys2Proof.Tests
end

section
/-! SUPPORT. Proofs about the words of spec/00_scope.md: the extensions of a field (R9, R10) and `setcc` (R12). -/

namespace Sys2Proof.Machine

/-! ## Extension of a field (R9, R10) -/

theorem getLsbD_sext16 {n i : Nat} (v : BitVec n) (hi : i < 16) :
    (sext16 v).getLsbD i = if i < n then v.getLsbD i else v.getLsbD (n - 1) := by
  simp only [sext16, BitVec.getLsbD_signExtend, BitVec.msb_eq_getLsbD_last, hi, decide_true, Bool.true_and]

theorem toInt_sext16 {n : Nat} (v : BitVec n) (hn : n ≤ 16) : (sext16 v).toInt = v.toInt :=
  BitVec.toInt_signExtend_of_le hn

theorem getLsbD_zext16 {n i : Nat} (v : BitVec n) (hi : i < 16) :
    (zext16 v).getLsbD i = if i < n then v.getLsbD i else false := by
  have above : n ≤ i → v.getLsbD i = false := BitVec.getLsbD_of_ge v i
  simp only [zext16, BitVec.getLsbD_setWidth, hi, decide_true, Bool.true_and]
  split
  · rfl
  · exact above (by omega)

/-- Settles O6: the field's top bit fills the word, so the signed value is the field's, and a field of width n has a
signed value in the range of n bits. -/
theorem signExtensionOfAField : Obligations.SignExtensionOfAField := by
  intro n v _ hn
  have value : (sext16 v).toInt = v.toInt := toInt_sext16 v hn.le
  exact ⟨fun i hi => getLsbD_sext16 v hi, value, value ▸ BitVec.le_toInt v, value ▸ BitVec.toInt_lt⟩

/-- Settles O7: a bit at or above the width is no bit of the field. -/
theorem zeroExtensionOfAField : Obligations.ZeroExtensionOfAField :=
  fun _ v _ _ hi => getLsbD_zext16 v hi

/-! ## `setcc` (R12) -/

theorem flagsShow_setcc (s : State) (v : Word) : FlagsShow v (s.setcc v) :=
  ⟨Psr.setcc_n s.psr v, Psr.setcc_z s.psr v, Psr.setcc_p s.psr v⟩

theorem samePrivilege_setcc (s : State) (v : Word) : SamePrivilege s (s.setcc v) := ⟨rfl, rfl⟩

/-- Flags that classify a value are one-hot (D5): a value is negative, zero or positive, and only one of them. -/
theorem FlagsShow.oneHot {v : Word} {t : State} (h : FlagsShow v t) :
    (t.psr.n, t.psr.z, t.psr.p) = (true, false, false) ∨ (t.psr.n, t.psr.z, t.psr.p) = (false, true, false) ∨
      (t.psr.n, t.psr.z, t.psr.p) = (false, false, true) := by
  obtain ⟨hn, hz, hp⟩ := h
  rw [hn, hz, hp]
  obtain neg | zero | pos := lt_trichotomy v.toInt 0
  · simp [neg, neg.ne, neg.le]
  · simp [zero]
  · simp [pos, pos.ne', pos.le]

/-- Settles O9: the flags classify the value, hence are one-hot, and only they are written. -/
theorem setccClassifiesTheValue : Obligations.SetccClassifiesTheValue := fun s v =>
  ⟨flagsShow_setcc s v, samePrivilege_setcc s v, (flagsShow_setcc s v).oneHot⟩

end Sys2Proof.Machine
end

section
/-! SUPPORT. Once for every statement of the form "every round keeps it": a predicate on states that the shared
operations keep is kept by every instruction and by every round. The parameters of R5 are its first use. -/

namespace Sys2Proof.Machine

/-- The next state, if there is one, meets the predicate; a refusal or a fault claims nothing. -/
def NextMeets (P : State → Prop) (r : Result) : Prop := ∀ t, r = .next t → P t

/-- The predicate is kept by each operation of which instructions and rounds are made. A call begins or goes on waiting
only with TRAP_MODE = abstract or where one waited already (R160). -/
structure ClosedUnderOps (P : State → Prop) : Prop where
  setReg : ∀ {s} r v, P s → P (s.setReg r v)
  setPc : ∀ {s} v, P s → P (s.setPc v)
  setPsr : ∀ {s} p, P s → P (s.setPsr p)
  setSavedSsp : ∀ {s} v, P s → P (s.setSavedSsp v)
  setSavedUsp : ∀ {s} v, P s → P (s.setSavedUsp v)
  memRead : ∀ {s t a v}, P s → memRead a s = .ok (v, t) → P t
  memWrite : ∀ {s t a v}, P s → memWrite a v s = .ok t → P t
  emit : ∀ {s} text, P s → P (s.emit text)
  afterService : ∀ {s}, P s → P (afterService s)
  startWaiting : ∀ {s} k, P s → s.cfg.trapMode = .abstract ∨ s.waiting.isSome = true → P (s.setWaiting (some k))
  stopWaiting : ∀ {s}, P s → P (s.setWaiting none)
  afterTurn : ∀ {s}, P s → P s.afterTurn

theorem nextMeets_next {P : State → Prop} {s : State} (hs : P s) : NextMeets P (.next s) := by
  rintro _ ⟨⟩
  exact hs

theorem nextMeets_refused {P : State → Prop} {r : Refusal} : NextMeets P (.refused r) := by
  rintro _ ⟨⟩

namespace ClosedUnderOps

variable {P : State → Prop} {s : State}

/-! ### The shared operations -/

theorem setcc (h : ClosedUnderOps P) (v : Word) (hs : P s) : P (s.setcc v) := h.setPsr _ hs

theorem setResult (h : ClosedUnderOps P) (dr : Reg) (v : Word) (hs : P s) : P (s.setResult dr v) :=
  h.setcc v (h.setReg dr v hs)

theorem link (h : ClosedUnderOps P) (hs : P s) : P (link s) := h.setReg .r7 s.pc hs

/-- One draw is what a read of DDR takes. -/
theorem drawOne (h : ClosedUnderOps P) (hs : P s) : P (s.drawn 1) := h.memRead (a := ddrAddr) hs rfl

theorem emitFree (h : ClosedUnderOps P) (hs : P s) : P s.emitFree := h.drawOne (h.emit _ hs)

/-- A key is consumed as by a read of KBDR. -/
theorem consumeKey (h : ClosedUnderOps P) (hs : P s) : P (consumeKey s) := h.memRead (a := kbdrAddr) hs rfl

theorem withRead (h : ClosedUnderOps P) {a : Word} {k : Word → State → Result} (hs : P s)
    (hk : ∀ v t, P t → NextMeets P (k v t)) : NextMeets P (withRead a s k) := by
  intro u hu
  obtain ⟨v, t, hr, hu⟩ := withRead_next hu
  exact hk v t (h.memRead hs hr) u hu

theorem withWrite (h : ClosedUnderOps P) {a v : Word} {k : State → Result} (hs : P s)
    (hk : ∀ t, P t → NextMeets P (k t)) : NextMeets P (withWrite a v s k) := by
  intro u hu
  obtain ⟨t, hw, hu⟩ := withWrite_next hu
  exact hk t (h.memWrite hs hw) u hu

theorem push (h : ClosedUnderOps P) {v : Word} {k : State → Result} (hs : P s)
    (hk : ∀ t, P t → NextMeets P (k t)) : NextMeets P (push v s k) :=
  h.withWrite (h.setReg _ _ hs) hk

theorem pop (h : ClosedUnderOps P) {k : Word → State → Result} (hs : P s)
    (hk : ∀ v t, P t → NextMeets P (k v t)) : NextMeets P (pop s k) :=
  h.withRead hs fun v _ ht => hk v _ (h.setReg _ _ ht)

theorem loadFrom (h : ClosedUnderOps P) (ea : Word) (dr : Reg) (hs : P s) : NextMeets P (loadFrom ea dr s) :=
  h.withRead hs fun v _ ht => nextMeets_next (h.setResult dr v ht)

theorem storeTo (h : ClosedUnderOps P) (ea v : Word) (hs : P s) : NextMeets P (storeTo ea v s) :=
  h.withWrite hs fun _ ht => nextMeets_next ht

theorem fetch (h : ClosedUnderOps P) {i : Instr} {t : State} (hs : P s) (hf : fetch s = .ok (i, t)) : P t := by
  obtain ⟨_, u, hr, _, rfl⟩ := fetch_ok hf
  exact h.setPc _ (h.memRead hs hr)

/-! ### Entry to a service routine and return from it (R150, R176) -/

theorem switchToSupervisorStack (h : ClosedUnderOps P) (hs : P s) : P (switchToSupervisorStack s) := by
  unfold Machine.switchToSupervisorStack
  cases s.psr.mode with
  | user => exact h.setReg _ _ (h.setSavedUsp _ hs)
  | supervisor => exact hs

theorem leaveSupervisorStack (h : ClosedUnderOps P) (hs : P s) : P (leaveSupervisorStack s) := by
  unfold Machine.leaveSupervisorStack
  cases s.psr.mode with
  | user => exact h.setReg _ _ (h.setSavedSsp _ hs)
  | supervisor => exact hs

theorem initiate (h : ClosedUnderOps P) (vec : BitVec 8) (pc0 : Word) (prio : Option (BitVec 3)) (hs : P s) :
    NextMeets P (initiate vec pc0 prio s) :=
  h.push (h.setPsr _ (h.switchToSupervisorStack hs)) fun _ h1 =>
    h.push h1 fun _ h2 => h.withRead h2 fun v _ h3 => nextMeets_next (h.setPc v h3)

theorem returnFromInterrupt (h : ClosedUnderOps P) (hs : P s) : NextMeets P (returnFromInterrupt s) :=
  h.pop hs fun t _ h1 => h.pop (h.setPc t h1) fun _ _ h2 => nextMeets_next (h.leaveSupervisorStack (h.setPsr _ h2))

theorem execRti (h : ClosedUnderOps P) (hs : P s) : NextMeets P (execRti s) := by
  unfold Machine.execRti
  cases s.psr.mode with
  | supervisor => exact h.returnFromInterrupt hs
  | user => exact h.initiate _ _ none hs

/-! ### The services of TRAP_MODE = abstract (R160 to R166) -/

theorem serviceReturn (h : ClosedUnderOps P) (hs : P s) : NextMeets P (serviceReturn s) :=
  nextMeets_next (h.setPc _ hs)

theorem echo (h : ClosedUnderOps P) (k : KeyService) (c : Byte) (hs : P s) : P (s.echo k c) := by
  cases k with
  | getc => exact hs
  | inp => exact h.emitFree (h.emit _ hs)

theorem deliverTo (h : ClosedUnderOps P) (k : KeyService) (hs : P s) : NextMeets P (deliverTo k s) :=
  h.serviceReturn (h.stopWaiting (h.setReg _ _ (h.afterService (h.echo k _ (h.consumeKey hs)))))

theorem awaitKey (h : ClosedUnderOps P) (k : KeyService) (hs : P s)
    (hw : s.cfg.trapMode = .abstract ∨ s.waiting.isSome = true) : NextMeets P (awaitKey k s) := by
  obtain ⟨_, ready⟩ | ⟨_, waits⟩ := awaitKey_cases k s
  · exact ready ▸ h.deliverTo k hs
  · exact waits ▸ nextMeets_next (h.startWaiting k hs hw)

theorem putsService (h : ClosedUnderOps P) (hs : P s) : NextMeets P (putsService s) := by
  unfold Machine.putsService
  split
  · exact nextMeets_refused
  · exact h.serviceReturn (h.afterService (h.emit _ hs))

theorem putspService (h : ClosedUnderOps P) (hs : P s) : NextMeets P (putspService s) := by
  unfold Machine.putspService
  split
  · exact nextMeets_refused
  · split
    · exact nextMeets_refused
    · exact h.serviceReturn (h.afterService (h.emit _ hs))

/-- HALT stops the clock by a store to the MCR (R166). -/
theorem haltService (h : ClosedUnderOps P) (hs : P s) : NextMeets P (haltService s) :=
  have stopped := h.memWrite (a := mcrAddr) (h.afterService (h.emitFree hs)) rfl
  nextMeets_next (h.drawOne (h.setPc _ stopped))

theorem trapVectored (h : ClosedUnderOps P) (v : BitVec 8) (hs : P s) : NextMeets P (trapVectored v s) :=
  h.withRead (h.link hs) fun t _ h1 => nextMeets_next (h.setPc t h1)

theorem trapCall (h : ClosedUnderOps P) (v : BitVec 8) (hs : P s) : NextMeets P (trapCall v s) := by
  have linked := h.link hs
  unfold Machine.trapCall
  split
  next => exact h.trapVectored v hs
  next abstr =>
    split
    next => exact h.awaitKey .getc linked (.inl abstr)
    next => exact h.serviceReturn (h.afterService (h.emit _ linked))
    next => exact h.putsService linked
    next => exact h.awaitKey .inp (h.emitFree linked) (.inl abstr)
    next => exact h.putspService linked
    next => exact h.haltService linked
    next => exact h.trapVectored v hs

/-! ### Instructions and rounds -/

theorem execBr (h : ClosedUnderOps P) (n z p : Bool) (off : BitVec 9) (hs : P s) :
    NextMeets P (execBr n z p off s) := by
  unfold Machine.execBr
  split
  · exact nextMeets_next (h.setPc _ hs)
  · exact nextMeets_next hs

theorem execJsrr (h : ClosedUnderOps P) (base : Reg) (hs : P s) : NextMeets P (execJsrr base s) := by
  unfold Machine.execJsrr
  split <;> exact nextMeets_next (h.setPc _ (h.link hs))

theorem execLdi (h : ClosedUnderOps P) (dr : Reg) (off : BitVec 9) (hs : P s) : NextMeets P (execLdi dr off s) :=
  h.withRead hs fun ea _ ht => h.loadFrom ea dr ht

theorem execSti (h : ClosedUnderOps P) (sr : Reg) (off : BitVec 9) (hs : P s) : NextMeets P (execSti sr off s) :=
  h.withRead hs fun ea t ht => h.storeTo ea (t.reg sr) ht

theorem exec (h : ClosedUnderOps P) (i : Instr) (hs : P s) : NextMeets P (exec i s) := by
  cases i with
  | addReg | addImm | andReg | andImm | not | lea => exact nextMeets_next (h.setResult _ _ hs)
  | br n z p off => exact h.execBr n z p off hs
  | jmp | ret => exact nextMeets_next (h.setPc _ hs)
  | jsr off => exact nextMeets_next (h.setPc _ (h.link hs))
  | jsrr base => exact h.execJsrr base hs
  | ld | ldr => exact h.loadFrom _ _ hs
  | ldi dr off => exact h.execLdi dr off hs
  | st | str => exact h.storeTo _ _ hs
  | sti sr off => exact h.execSti sr off hs
  | rti => exact h.execRti hs
  | trap | getc | out | puts | inp | putsp | halt => exact h.trapCall _ hs
  | reserved low => exact h.initiate _ _ none hs

/-- Every round keeps a predicate that the operations keep. -/
theorem step (h : ClosedUnderOps P) (hs : P s) : NextMeets P (step s) := by
  intro t ht
  have turned := h.afterTurn hs
  obtain ⟨_, ⟨k, waits, resumed⟩ | ⟨_, _, _, entered⟩ | ⟨_, _, i, _, fetched, performed⟩⟩ := step_cases ht
  · have hw : s.afterTurn.waiting.isSome = true := by simp [State.afterTurn, waits]
    exact h.awaitKey k turned (.inr hw) t resumed
  · exact h.initiate _ _ _ turned t entered
  · exact h.exec i (h.fetch turned fetched) t performed

end ClosedUnderOps

/-! ## The parameters (R5) -/

theorem closedUnderOps_cfg (c : Config) : ClosedUnderOps (fun s => s.cfg = c) where
  setReg _ _ hs := hs
  setPc _ hs := hs
  setPsr _ hs := hs
  setSavedSsp _ hs := hs
  setSavedUsp _ hs := hs
  memRead hs hr := by
    obtain ⟨_, _, _, _, _, _, _, cfg, _⟩ := memRead_frame hr
    exact cfg.trans hs
  memWrite hs hw := by
    obtain ⟨_, _, _, _, _, _, _, cfg, _⟩ := memWrite_frame hw
    exact cfg.trans hs
  emit _ hs := hs
  afterService hs := hs
  startWaiting _ hs _ := hs
  stopWaiting hs := hs
  afterTurn hs := hs

/-- Settles O56: no operation writes the parameters, so no round does. -/
theorem stepKeepsTheParameters : Obligations.StepKeepsTheParameters := fun s t ht =>
  (closedUnderOps_cfg s.cfg).step rfl t ht

end Sys2Proof.Machine
end

section
/-! SUPPORT. Proofs about spec/10_state.md: the PSR as a word (R29), what a round is (R25), the state at the start of a
run (R40). -/

namespace Sys2Proof.Machine

variable {s u : State}

/-! ## The PSR as a word (R29) -/

/-- The mode a word loads is written back as the word's bit 15. -/
theorem mode_user_ofWord (w : Word) : decide ((Psr.ofWord w).mode = .user) = w.getLsbD 15 := by
  unfold Psr.ofWord
  cases w.getLsbD 15 <;> rfl

/-- Bits 15, 10 to 8 and 2 to 0 are kept, the others become 0 (D6, D24). -/
theorem Psr.toWord_ofWord (w : Word) : (Psr.ofWord w).toWord = w &&& 0x8707#16 := by
  unfold Psr.toWord
  rw [mode_user_ofWord]
  apply BitVec.eq_of_getLsbD_eq
  intro i hi
  simp only [Psr.ofWord, BitVec.getLsbD_append, BitVec.getLsbD_and]
  interval_cases i <;> simp

/-- Settles O10: the fields of a PSR are the defined bits of its word, and the other bits have no storage. -/
theorem psrWordKeepsTheDefinedBits : Obligations.PsrWordKeepsTheDefinedBits :=
  ⟨Psr.ofWord_toWord, Psr.toWord_ofWord⟩

/-- The undefined bits of the PSR read as 0 (R29): its word is a word with the other bits masked off. -/
theorem Psr.toWord_undefined_bits (p : Psr) : p.toWord &&& 0x78F8#16 = 0#16 := by
  have masked : p.toWord = p.toWord &&& 0x8707#16 := by
    simpa using Psr.toWord_ofWord p.toWord
  rw [masked, BitVec.and_assoc]
  exact BitVec.and_zero

/-! ## The round (R25) -/

/-- A round in which an interrupt is accepted is its initiation, with the PC of the instruction not yet fetched. -/
theorem step_of_accepted {src : IntSource} (running : s.clockEnabled = true) (free : s.waiting = none)
    (accepted : s.afterTurn.accepted s.turn.pick = some src) :
    step s = initiate src.vec s.pc (some src.prio) s.afterTurn := by
  simp only [step, openRound, running, free, accepted, if_true]
  rfl

/-- A round in which none is accepted runs one instruction. -/
theorem step_of_not_accepted (running : s.clockEnabled = true) (free : s.waiting = none)
    (none_accepted : s.afterTurn.accepted s.turn.pick = none) : step s = runInstruction s.afterTurn := by
  simp only [step, openRound, running, free, none_accepted, if_true]

/-- The fetch of a word that decodes: the instruction, the PC advanced over it. -/
theorem fetch_of_decode {w : Word} {i : Instr} (read : memRead s.pc s = .ok (w, u)) (decoded : decode w = .ok i) :
    fetch s = .ok (i, u.setPc (s.pc + 1#16)) := by
  simp only [fetch, read, decoded]

/-- An instruction that was fetched is performed at the incremented PC. -/
theorem runInstruction_of_fetch {i : Instr} (fetched : fetch s = .ok (i, u)) : runInstruction s = exec i u := by
  simp only [runInstruction, fetched]

/-- Settles O37: the round is the initiation, which completes where its frame and its entry lie in ordinary memory. -/
theorem acceptedInterruptIsInitiated : Obligations.AcceptedInterruptIsInitiated := by
  intro s src running free accepted enters
  rw [step_of_accepted running free accepted]
  exact initiate_ordinary src.vec s.pc (some src.prio) enters

/-- Settles O47: with nothing accepted the round fetches the word at the PC and performs what it decodes to. -/
theorem stepRunsTheDecodedInstruction : Obligations.StepRunsTheDecodedInstruction := by
  intro s u w i running free none_accepted read decoded
  rw [step_of_not_accepted running free none_accepted]
  exact runInstruction_of_fetch (fetch_of_decode read decoded)

/-! ## The start of a run (R40, R210) -/

/-- A launch has no key and no waiting call, so only its image can break the invariant. -/
theorem launch_inv (l : Launch) (canonical : Memory.wf l.mem = true) : (State.launch l).inv = true := by
  simp [State.inv, State.launch, canonical]

/-- Settles O55: a launch fixes the devices, its undefined PSR bits have no storage, and reset is the launch with an
empty image and no interrupt source. -/
theorem launchMeetsTheInvariant : Obligations.LaunchMeetsTheInvariant := by
  have no_source : sources State.reset.cfg = [] := rfl
  refine ⟨launch_inv Launch.standard rfl, ?_, fun l canonical => ?_⟩
  · simp [no_source]
  · exact ⟨launch_inv l canonical, rfl, rfl, rfl, rfl, rfl, rfl, l.psr.toWord_undefined_bits⟩

end Sys2Proof.Machine
end

section
/-! SUPPORT. No access, instruction or entry ends in a fault; a round does exactly when the clock is off (R36). -/

namespace Sys2Proof.Machine

/-- The answer is a next state or a refusal. -/
def NeverFaults (r : Result) : Prop := ∀ f, r ≠ .fault f

theorem neverFaults_next (s : State) : NeverFaults (.next s) := by
  rintro _ ⟨⟩

theorem neverFaults_refused (r : Refusal) : NeverFaults (.refused r) := by
  rintro _ ⟨⟩

/-! ## The shared operations -/

theorem neverFaults_withRead {a : Word} {s : State} {k : Word → State → Result}
    (hk : ∀ v t, NeverFaults (k v t)) : NeverFaults (withRead a s k) := by
  intro f h
  obtain ⟨v, t, _, after⟩ := withRead_fault h
  exact hk v t f after

theorem neverFaults_withWrite {a v : Word} {s : State} {k : State → Result} (hk : ∀ t, NeverFaults (k t)) :
    NeverFaults (withWrite a v s k) := by
  intro f h
  obtain ⟨t, _, after⟩ := withWrite_fault h
  exact hk t f after

theorem neverFaults_push {v : Word} {s : State} {k : State → Result} (hk : ∀ t, NeverFaults (k t)) :
    NeverFaults (push v s k) :=
  neverFaults_withWrite hk

theorem neverFaults_pop {s : State} {k : Word → State → Result} (hk : ∀ v t, NeverFaults (k v t)) :
    NeverFaults (pop s k) :=
  neverFaults_withRead fun v _ => hk v _

theorem neverFaults_loadFrom (ea : Word) (dr : Reg) (s : State) : NeverFaults (loadFrom ea dr s) :=
  neverFaults_withRead fun _ _ => neverFaults_next _

theorem neverFaults_storeTo (ea v : Word) (s : State) : NeverFaults (storeTo ea v s) :=
  neverFaults_withWrite fun _ => neverFaults_next _

/-- An entry is two pushes and a read (R176). -/
theorem neverFaults_initiate (vec : BitVec 8) (saved : Word) (prio : Option (BitVec 3)) (s : State) :
    NeverFaults (initiate vec saved prio s) :=
  neverFaults_push fun _ => neverFaults_push fun _ => neverFaults_withRead fun _ _ => neverFaults_next _

theorem neverFaults_returnFromInterrupt (s : State) : NeverFaults (returnFromInterrupt s) :=
  neverFaults_pop fun _ _ => neverFaults_pop fun _ _ => neverFaults_next _

theorem neverFaults_execRti (s : State) : NeverFaults (execRti s) := by
  unfold execRti
  cases s.psr.mode with
  | supervisor => exact neverFaults_returnFromInterrupt s
  | user => exact neverFaults_initiate _ _ none s

/-! ## The services and TRAP -/

theorem neverFaults_awaitKey (k : KeyService) (s : State) : NeverFaults (awaitKey k s) := by
  obtain ⟨_, ready⟩ | ⟨_, waits⟩ := awaitKey_cases k s
  · exact ready ▸ neverFaults_next _
  · exact waits ▸ neverFaults_next _

theorem neverFaults_putsService (s : State) : NeverFaults (putsService s) := by
  unfold putsService
  split
  · exact neverFaults_refused _
  · exact neverFaults_next _

theorem neverFaults_putspService (s : State) : NeverFaults (putspService s) := by
  unfold putspService
  split
  · exact neverFaults_refused _
  · split
    · exact neverFaults_refused _
    · exact neverFaults_next _

theorem neverFaults_trapVectored (v : BitVec 8) (s : State) : NeverFaults (trapVectored v s) :=
  neverFaults_withRead fun _ _ => neverFaults_next _

theorem neverFaults_trapCall (v : BitVec 8) (s : State) : NeverFaults (trapCall v s) := by
  unfold trapCall
  split
  next => exact neverFaults_trapVectored v s
  next =>
    split
    next => exact neverFaults_awaitKey .getc _
    next => exact neverFaults_next _
    next => exact neverFaults_putsService _
    next => exact neverFaults_awaitKey .inp _
    next => exact neverFaults_putspService _
    next => exact neverFaults_next _
    next => exact neverFaults_trapVectored v s

/-! ## Instructions and rounds -/

theorem neverFaults_execBr (n z p : Bool) (off : BitVec 9) (s : State) : NeverFaults (execBr n z p off s) := by
  unfold execBr
  split <;> exact neverFaults_next _

theorem neverFaults_execJsrr (base : Reg) (s : State) : NeverFaults (execJsrr base s) := by
  unfold execJsrr
  split <;> exact neverFaults_next _

theorem neverFaults_exec (i : Instr) (s : State) : NeverFaults (exec i s) := by
  cases i with
  | addReg | addImm | andReg | andImm | not | lea | jmp | ret | jsr => exact neverFaults_next _
  | br n z p off => exact neverFaults_execBr n z p off s
  | jsrr base => exact neverFaults_execJsrr base s
  | ld | ldr => exact neverFaults_loadFrom _ _ s
  | ldi dr => exact neverFaults_withRead fun ea t => neverFaults_loadFrom ea dr t
  | st | str => exact neverFaults_storeTo _ _ s
  | sti sr => exact neverFaults_withRead fun ea t => neverFaults_storeTo ea (t.reg sr) t
  | rti => exact neverFaults_execRti s
  | trap | getc | out | puts | inp | putsp | halt => exact neverFaults_trapCall _ s
  | reserved => exact neverFaults_initiate _ _ none s

theorem neverFaults_runInstruction (s : State) : NeverFaults (runInstruction s) := by
  unfold runInstruction
  split
  · exact neverFaults_refused _
  · exact neverFaults_exec _ _

theorem neverFaults_step {s : State} (running : s.clockEnabled = true) : NeverFaults (step s) := by
  unfold step
  rw [if_pos running]
  split
  · exact neverFaults_awaitKey _ _
  · split
    · exact neverFaults_initiate _ _ _ _
    · exact neverFaults_runInstruction _

/-- With the clock off there is no round (R36, R198). -/
theorem step_of_clock_off {s : State} (stopped : s.clockEnabled = false) : step s = .fault .clockStopped := by
  simp [step, stopped]

/-- Settles O49: a round with the clock on is an entry, a service or an instruction, and none of these faults. -/
theorem stepFaultsExactlyWhenTheClockIsOff : Obligations.StepFaultsExactlyWhenTheClockIsOff := by
  intro s f
  constructor
  · intro faults
    cases running : s.clockEnabled with
    | false => exact running
    | true => exact absurd faults (neverFaults_step running f)
  · intro stopped
    cases f with
    | clockStopped => exact step_of_clock_off stopped

end Sys2Proof.Machine
end

section
/-! SUPPORT. Which instructions can clear the clock enable bit (R36): a read leaves the MCR alone, and a service of
TRAP_MODE = abstract that returns leaves MCR[15] alone (log 20). -/

namespace Sys2Proof.Machine

variable {s t : State}

/-! ## What leaves MCR[15] alone -/

theorem memRead_clockEnabled {a v : Word} (h : memRead a s = .ok (v, t)) : t.clockEnabled = s.clockEnabled := by
  obtain rfl | rfl | rfl := memRead_cases h <;> rfl

@[simp] theorem leaveSupervisorStack_clockEnabled : (leaveSupervisorStack s).clockEnabled = s.clockEnabled := by
  unfold leaveSupervisorStack
  cases s.psr.mode <;> rfl

/-- A service draws MCR[14:0] free and keeps MCR[15]. -/
@[simp] theorem afterService_clockEnabled : (afterService s).clockEnabled = s.clockEnabled := by
  simp [State.clockEnabled, afterService]

@[simp] theorem echo_clockEnabled (k : KeyService) (c : Byte) : (s.echo k c).clockEnabled = s.clockEnabled := by
  cases k <;> rfl

/-! ## Operations after which the clock still runs -/

/-- The clock runs in the next state, if there is one. -/
def ClockRuns (r : Result) : Prop := NextMeets (fun t => t.clockEnabled = true) r

theorem clockRuns_withRead {a : Word} {k : Word → State → Result} (running : s.clockEnabled = true)
    (hk : ∀ v t, t.clockEnabled = true → ClockRuns (k v t)) : ClockRuns (withRead a s k) := by
  intro u hu
  obtain ⟨v, t, read, after⟩ := withRead_next hu
  exact hk v t ((memRead_clockEnabled read).trans running) u after

theorem clockRuns_loadFrom (ea : Word) (dr : Reg) (running : s.clockEnabled = true) :
    ClockRuns (loadFrom ea dr s) :=
  clockRuns_withRead running fun _ _ h => nextMeets_next h

theorem clockRuns_pop {k : Word → State → Result} (running : s.clockEnabled = true)
    (hk : ∀ v t, t.clockEnabled = true → ClockRuns (k v t)) : ClockRuns (pop s k) :=
  clockRuns_withRead running fun v _ h => hk v _ h

theorem clockRuns_returnFromInterrupt (running : s.clockEnabled = true) : ClockRuns (returnFromInterrupt s) :=
  clockRuns_pop running fun pc t h1 => clockRuns_pop (s := t.setPc pc) h1 fun _ _ h2 =>
    nextMeets_next (leaveSupervisorStack_clockEnabled.trans h2)

theorem clockRuns_serviceReturn (running : s.clockEnabled = true) : ClockRuns (serviceReturn (afterService s)) :=
  nextMeets_next (afterService_clockEnabled.trans running)

theorem clockRuns_awaitKey (k : KeyService) (running : s.clockEnabled = true) : ClockRuns (awaitKey k s) := by
  obtain ⟨_, ready⟩ | ⟨_, waits⟩ := awaitKey_cases k s
  · have shown : ((consumeKey s).echo k s.dev.kbdr).clockEnabled = true := (echo_clockEnabled k _).trans running
    exact ready ▸ nextMeets_next (afterService_clockEnabled.trans shown)
  · exact waits ▸ nextMeets_next running

theorem clockRuns_putsService (running : s.clockEnabled = true) : ClockRuns (putsService s) := by
  unfold putsService
  split
  · exact nextMeets_refused
  · exact clockRuns_serviceReturn running

theorem clockRuns_putspService (running : s.clockEnabled = true) : ClockRuns (putspService s) := by
  unfold putspService
  split
  · exact nextMeets_refused
  · split
    · exact nextMeets_refused
    · exact clockRuns_serviceReturn running

theorem clockRuns_trapVectored (v : BitVec 8) (running : s.clockEnabled = true) : ClockRuns (trapVectored v s) :=
  clockRuns_withRead running fun _ _ h => nextMeets_next h

/-- Every trap call but that of the abstract HALT. -/
theorem clockRuns_trapCall {v : BitVec 8} (not_halt : ¬(s.cfg.trapMode = .abstract ∧ v = 0x25#8))
    (running : s.clockEnabled = true) : ClockRuns (trapCall v s) := by
  have linked : (link s).clockEnabled = true := running
  unfold trapCall
  split
  next => exact clockRuns_trapVectored v running
  next abstr =>
    split
    next => exact clockRuns_awaitKey .getc linked
    next => exact clockRuns_serviceReturn linked
    next => exact clockRuns_putsService linked
    next => exact clockRuns_awaitKey .inp linked
    next => exact clockRuns_putspService linked
    next halts => exact absurd ⟨abstr, BitVec.eq_of_toNat_eq halts⟩ not_halt
    next => exact clockRuns_trapVectored v running

theorem clockRuns_execBr (n z p : Bool) (off : BitVec 9) (running : s.clockEnabled = true) :
    ClockRuns (execBr n z p off s) := by
  unfold execBr
  split <;> exact nextMeets_next running

theorem clockRuns_execJsrr (base : Reg) (running : s.clockEnabled = true) : ClockRuns (execJsrr base s) := by
  unfold execJsrr
  split <;> exact nextMeets_next running

/-- Settles O50: the instructions that write no location, and the services that return, leave MCR[15] alone; what is
left is the list. -/
theorem onlyStoresStopTheClock : Obligations.OnlyStoresStopTheClock := by
  intro i s t performed running stopped
  have stops : ¬ClockRuns (exec i s) := fun runs => by simp [runs t performed] at stopped
  cases i with
  | st | sti | str | reserved => simp
  | addReg | addImm | andReg | andImm | not | lea | jmp | ret | jsr => exact absurd (nextMeets_next running) stops
  | br n z p off => exact absurd (clockRuns_execBr n z p off running) stops
  | jsrr base => exact absurd (clockRuns_execJsrr base running) stops
  | ld | ldr => exact absurd (clockRuns_loadFrom _ _ running) stops
  | ldi dr =>
    exact absurd (clockRuns_withRead running fun ea _ h => clockRuns_loadFrom ea dr h) stops
  | rti =>
    cases mode : s.psr.mode with
    | user => simp
    | supervisor =>
      have returns : exec .rti s = returnFromInterrupt s := by simp only [exec, execRti, mode]
      exact absurd (returns ▸ clockRuns_returnFromInterrupt running) stops
  | getc | out | puts | inp | putsp => exact absurd (clockRuns_trapCall (by simp) running) stops
  | trap | halt =>
    have halts := mt (clockRuns_trapCall · running) stops
    simpa using halts

end Sys2Proof.Machine
end

section
/-! SUPPORT. Which instructions change N, Z, P (R27): of those without the mark in Figure A.2, all but RTI leave the
PSR alone or enter a service routine, which changes the mode and the priority level only (R176). -/

namespace Sys2Proof.Machine

variable {s t u : State}

theorem memRead_psr {a v : Word} (h : memRead a s = .ok (v, t)) : t.psr = s.psr := by
  obtain ⟨_, _, psr, _⟩ := memRead_frame h
  exact psr

theorem memWrite_psr {a v : Word} (h : memWrite a v s = .ok t) : t.psr = s.psr := by
  obtain ⟨_, _, psr, _⟩ := memWrite_frame h
  exact psr

@[simp] theorem switchToSupervisorStack_psr : (switchToSupervisorStack s).psr = s.psr := by
  obtain ⟨_, _, psr, _⟩ := switchToSupervisorStack_frame (s := s)
  exact psr

/-- Wherever its stack and its entry lie, an initiation that completes changes the mode and the priority level. -/
theorem initiate_psr {vec : BitVec 8} {saved : Word} {prio : Option (BitVec 3)}
    (h : initiate vec saved prio s = .next t) :
    t.psr = { s.psr with mode := .supervisor, pl := prio.getD s.psr.pl } := by
  obtain ⟨s0, s1, s2, s3, v, rfl, pushed_psr, pushed_pc, read, rfl⟩ := initiate_next h
  calc s3.psr = s2.psr := memRead_psr read
    _ = s1.psr := (memWrite_psr pushed_pc :)
    _ = (enterSupervisor prio (switchToSupervisorStack s)).psr := (memWrite_psr pushed_psr :)
    _ = _ := by simp [enterSupervisor]

theorem storeTo_psr {ea v : Word} (h : storeTo ea v s = .next t) : t.psr = s.psr := by
  obtain ⟨_, written, ⟨⟩⟩ := withWrite_next h
  exact memWrite_psr written

theorem execSti_psr {sr : Reg} {off : BitVec 9} (h : execSti sr off s = .next t) : t.psr = s.psr := by
  obtain ⟨_, _, read, stored⟩ := withRead_next h
  exact (storeTo_psr stored).trans (memRead_psr read)

theorem execBr_psr {n z p : Bool} {off : BitVec 9} (h : execBr n z p off s = .next t) : t.psr = s.psr := by
  unfold execBr at h
  split at h <;> cases h <;> rfl

theorem execJsrr_psr {base : Reg} (h : execJsrr base s = .next t) : t.psr = s.psr := by
  unfold execJsrr at h
  split at h <;> cases h <;> rfl

theorem trapVectored_psr {v : BitVec 8} (h : trapVectored v s = .next t) : t.psr = s.psr := by
  obtain ⟨_, _, read, ⟨⟩⟩ := withRead_next h
  exact (memRead_psr read :)

theorem trapCall_of_vectored {v : BitVec 8} (vectored : s.cfg.trapMode = .vectored) :
    trapCall v s = trapVectored v s := by
  simp only [trapCall, vectored]

theorem sameFlags_of_psr_eq (h : t.psr = s.psr) : SameFlags s t := by
  simp [SameFlags, h]

/-- Settles O51: the instructions without the mark leave the PSR alone, except RTI and the reserved opcode, and the
latter's entry keeps N, Z, P. -/
theorem onlyMarkedInstructionsChangeTheFlags : Obligations.OnlyMarkedInstructionsChangeTheFlags := by
  intro i s t performed unmarked not_rti vectored
  cases i with
  | addReg | addImm | andReg | andImm | not | ld | ldi | ldr | lea => cases unmarked
  | rti => exact absurd rfl not_rti
  | br => exact sameFlags_of_psr_eq (execBr_psr performed)
  | jmp | ret | jsr =>
    cases performed
    exact sameFlags_of_psr_eq rfl
  | jsrr => exact sameFlags_of_psr_eq (execJsrr_psr performed)
  | st | str => exact sameFlags_of_psr_eq (storeTo_psr performed)
  | sti => exact sameFlags_of_psr_eq (execSti_psr performed)
  | trap | getc | out | puts | inp | putsp | halt =>
    exact sameFlags_of_psr_eq (trapVectored_psr ((trapCall_of_vectored vectored).symm.trans performed))
  | reserved =>
    have psr := initiate_psr performed
    simp [SameFlags, psr]

end Sys2Proof.Machine
end

section
/-! SUPPORT. The environment's turn (R196, R197), said once for the whole state: the keyboard delivers its next
characters, the display may become ready, the request lines may change, and nothing else is touched. -/

namespace Sys2Proof.Machine

/-- What the turn leaves of the devices, with the characters typed in it. -/
def Devices.afterTyping (d : Devices) (t : EnvTurn) (typed rest : List Byte) : Devices :=
  { d with
    keyboard := rest
    kbdr := typed.getLastD d.kbdr
    kbsrReady := d.kbsrReady || !typed.isEmpty
    dsrReady := d.dsrReady || t.displayReady
    lines := t.lines.getD d.lines }

theorem afterTurn_dev (s : State) : ∃ typed rest, s.dev.keyboard = typed ++ rest ∧
    typed.length = min s.turn.keys s.dev.keyboard.length ∧
    s.afterTurn.dev = s.dev.afterTyping s.turn typed rest := by
  obtain ⟨typed, split, count, delivered⟩ := deliverKeys_spec s.turn.keys s.dev
  refine ⟨typed, _, split, count, ?_⟩
  simp only [State.afterTurn, applyTurn]
  rw [delivered]
  rfl

/-- Settles O58: the turn is `Devices.afterTyping` on the devices and leaves the other fields. -/
theorem environmentTouchesOnlyDevices : Obligations.EnvironmentTouchesOnlyDevices := by
  intro s
  obtain ⟨typed, rest, split, count, dev⟩ := afterTurn_dev s
  refine ⟨typed, rfl, rfl, rfl, ⟨rfl, rfl⟩, rfl, rfl, rfl, rfl, ?_⟩
  rw [dev]
  refine ⟨rfl, rfl, rfl, rfl, fun ready => ?_, split, count, rfl, ?_⟩
  · simp [Devices.afterTyping, ready]
  · simp [Devices.afterTyping, or_comm]

end Sys2Proof.Machine
end

section
/-! SUPPORT. The invariant is kept by every operation, hence by every round: KBSR[14] is written only with KBD_INTERRUPT
(R193), memory only by `Memory.write`, and a call begins to wait only with TRAP_MODE = abstract (R160). -/

namespace Sys2Proof.Machine

variable {s t : State}

/-- The clauses as conditions: KBSR[14] needs KBD_INTERRUPT, a waiting call needs TRAP_MODE = abstract. -/
theorem State.inv_iff : s.inv = true ↔ Memory.wf s.mem = true ∧
    (s.dev.kbsrEnable = true → s.cfg.kbdInterrupt = true) ∧
    (s.waiting.isSome = true → s.cfg.trapMode = .abstract) := by
  simp only [State.inv, Bool.and_eq_true, Bool.or_eq_true, Bool.not_eq_true', decide_eq_true_eq, and_assoc]
  cases s.dev.kbsrEnable <;> cases s.waiting <;> simp

theorem inv_memRead {a v : Word} (hs : s.inv = true) (read : memRead a s = .ok (v, t)) : t.inv = true := by
  obtain rfl | rfl | rfl := memRead_cases read <;> exact hs

theorem inv_memWrite {a v : Word} (hs : s.inv = true) (written : memWrite a v s = .ok t) : t.inv = true := by
  obtain ⟨canonical, enable, waits⟩ := State.inv_iff.1 hs
  obtain ⟨_, _, rfl⟩ | ⟨_, rfl⟩ | ⟨_, interrupt, rfl⟩ | ⟨_, rfl⟩ | ⟨_, rfl⟩ := memWrite_cases written
  · exact hs
  · exact hs
  · exact State.inv_iff.2 ⟨canonical, fun _ => interrupt, waits⟩
  · exact hs
  · exact State.inv_iff.2 ⟨Memory.wf_write s.mem a v canonical, enable, waits⟩

/-- A service's stores are writes, and the value it leaves in KBSR[14] is masked by KBD_INTERRUPT. -/
theorem inv_afterService (hs : s.inv = true) : (afterService s).inv = true := by
  obtain ⟨canonical, _, waits⟩ := State.inv_iff.1 hs
  exact State.inv_iff.2 ⟨Memory.wf_writeAll _ s.mem canonical, Bool.and_elim_right, waits⟩

theorem inv_startWaiting (k : KeyService) (hs : s.inv = true)
    (h : s.cfg.trapMode = .abstract ∨ s.waiting.isSome = true) : (s.setWaiting (some k)).inv = true := by
  obtain ⟨canonical, enable, waits⟩ := State.inv_iff.1 hs
  exact State.inv_iff.2 ⟨canonical, enable, fun _ => h.elim id waits⟩

theorem inv_stopWaiting (hs : s.inv = true) : (s.setWaiting none).inv = true := by
  obtain ⟨canonical, enable, _⟩ := State.inv_iff.1 hs
  exact State.inv_iff.2 ⟨canonical, enable, nofun⟩

theorem inv_afterTurn (hs : s.inv = true) : s.afterTurn.inv = true := by
  obtain ⟨canonical, enable, waits⟩ := State.inv_iff.1 hs
  obtain ⟨_, _, _, _, dev⟩ := afterTurn_dev s
  refine State.inv_iff.2 ⟨canonical, ?_, waits⟩
  rw [dev]
  exact enable

theorem closedUnderOps_inv : ClosedUnderOps (fun s => s.inv = true) where
  setReg _ _ hs := hs
  setPc _ hs := hs
  setPsr _ hs := hs
  setSavedSsp _ hs := hs
  setSavedUsp _ hs := hs
  memRead := inv_memRead
  memWrite := inv_memWrite
  emit _ hs := hs
  afterService := inv_afterService
  startWaiting := inv_startWaiting
  stopWaiting := inv_stopWaiting
  afterTurn := inv_afterTurn

/-- Settles O54: every operation keeps the invariant, so every round does. -/
theorem stepKeepsTheInvariant : Obligations.StepKeepsTheInvariant := fun _ t hs ht =>
  closedUnderOps_inv.step hs t ht

end Sys2Proof.Machine
end

section
/-! SUPPORT. Proofs about spec/20_memory.md: the map of R53 and R54, and what a read or a fetch sees of earlier writes
(R59, R62). -/

namespace Sys2Proof.Machine

variable {s : State} {a v : Word}

/-! ## The map (R53, R54) -/

theorem isDeviceRegister_eq_false_iff :
    isDeviceRegister a = false ↔ a ∉ [0xFE00#16, 0xFE02#16, 0xFE04#16, 0xFE06#16, 0xFFFE#16] := by
  simp [isDeviceRegister, kbsrAddr, kbdrAddr, dsrAddr, ddrAddr, mcrAddr, and_assoc]

theorem inDeviceRange_iff {c : Config} : inDeviceRange c a = true ↔ c.deviceLo ≤ a ∧ a ≤ c.deviceHi := by
  simp [inDeviceRange]

/-- In DEVICE_RANGE an address without a register is a hole. -/
theorem readable_eq_false_of_mem_range (unnamed : isDeviceRegister a = false)
    (range : s.cfg.deviceLo ≤ a ∧ a ≤ s.cfg.deviceHi) : s.readable a = false := by
  simp [State.readable, unnamed, inDeviceRange_iff.2 range]

/-- Outside DEVICE_RANGE it is an ordinary location. -/
theorem ordinary_of_not_mem_range (unnamed : isDeviceRegister a = false)
    (range : ¬(s.cfg.deviceLo ≤ a ∧ a ≤ s.cfg.deviceHi)) : s.ordinary a = true := by
  simp [State.ordinary, unnamed, mt inDeviceRange_iff.1 range]

theorem memWrite_hole (h : s.readable a = false) : memWrite a v s = .error (.deviceHole a) := by
  simp only [State.readable, isDeviceRegister, Bool.or_eq_false_iff, beq_eq_false_iff_ne, ne_eq,
    Bool.not_eq_false'] at h
  obtain ⟨⟨⟨⟨⟨kbsr, kbdr⟩, dsr⟩, ddr⟩, mcr⟩, range⟩ := h
  simp [memWrite, kbsr, kbdr, dsr, ddr, mcr, range]

theorem storedOnly_poke (s : State) (a v : Word) : StoredOnly a v s (s.poke a v) := by
  have elsewhere : SameMemoryBut [a] s (s.poke a v) := fun b hb =>
    (State.peek_poke s a b v).trans (if_neg (by simpa using hb))
  exact ⟨by simp, elsewhere, fun _ _ => rfl, rfl, ⟨rfl, rfl, rfl⟩, ⟨rfl, rfl⟩, ⟨rfl, rfl⟩, rfl, rfl, rfl, rfl, rfl⟩

theorem devicesOnly_setDev (s : State) (d : Devices) : DevicesOnly s (s.setDev d) :=
  ⟨rfl, rfl, rfl, ⟨rfl, rfl⟩, rfl, rfl, rfl, rfl, rfl⟩

/-- Two status bits at the top of a word (R32, R34). -/
theorem toNat_statusWord (ready enable : Bool) :
    (BitVec.ofBool ready ++ BitVec.ofBool enable ++ 0#14).toNat =
      (if ready then 32768 else 0) + (if enable then 16384 else 0) := by
  cases ready <;> cases enable <;> rfl

theorem toNat_kbsrWord (s : State) : (kbsrWord s).toNat =
    (if s.dev.kbsrReady then 32768 else 0) + (if s.cfg.kbdInterrupt ∧ s.dev.kbsrEnable then 16384 else 0) := by
  simp only [kbsrWord, toNat_statusWord, Bool.and_eq_true, and_comm]

theorem toNat_kbdrWord (s : State) : (kbdrWord s).toNat = s.dev.kbdr.toNat := by
  rw [kbdrWord, BitVec.toNat_append]
  simp

theorem toNat_dsrWord (s : State) : (dsrWord s).toNat = if s.dev.dsrReady then 32768 else 0 := by
  unfold dsrWord
  cases s.dev.dsrReady <;> rfl

/-- Settles O21: each device register by its own line of R53; an address without one is a hole of DEVICE_RANGE or an
ordinary location. -/
theorem memReadFollowsTheMap : Obligations.MemReadFollowsTheMap := by
  intro s
  refine ⟨⟨kbsrWord s, rfl, toNat_kbsrWord s⟩,
    ⟨kbdrWord s, _, rfl, toNat_kbdrWord s, devicesOnly_setDev s _, rfl⟩,
    ⟨dsrWord s, rfl, toNat_dsrWord s⟩,
    ⟨_, s.drawn 1, rfl, rfl, rfl, rfl, ⟨rfl, rfl⟩, rfl, rfl, rfl, rfl, rfl⟩, rfl, fun a unlisted => ?_⟩
  have unnamed := isDeviceRegister_eq_false_iff.2 unlisted
  exact ⟨fun range => memRead_hole (readable_eq_false_of_mem_range unnamed range),
    fun range => memRead_ordinary (ordinary_of_not_mem_range unnamed range)⟩

theorem memWrite_ddr (v : Word) (s : State) : memWrite ddrAddr v s = displayWrite (v.extractLsb' 0 8) s := rfl

theorem memWrite_kbsr (v : Word) (s : State) : memWrite kbsrAddr v s = keyboardStatusWrite v s := rfl

/-- Settles O22: each device register by its own line of R54; an address without one is a hole of DEVICE_RANGE or an
ordinary location. -/
theorem memWriteFollowsTheMap : Obligations.MemWriteFollowsTheMap := by
  intro s v
  have low : v.extractLsb' 0 8 = BitVec.ofNat 8 v.toNat := by simp [BitVec.extractLsb']
  refine ⟨fun ready => ?_, fun busy => ?_, ⟨_, rfl, devicesOnly_setDev s _, rfl⟩, fun interrupt => ?_,
    fun absent clear => ?_, fun absent set => ?_, rfl, rfl, fun a unlisted => ?_⟩
  · exact ⟨_, (memWrite_ddr v s).trans (if_pos ready), devicesOnly_setDev s _, by simp [low], low, rfl⟩
  · exact (memWrite_ddr v s).trans (by simp [displayWrite, busy])
  · exact ⟨_, (memWrite_kbsr v s).trans (if_pos interrupt), devicesOnly_setDev s _, rfl⟩
  · exact (memWrite_kbsr v s).trans (by simp only [keyboardStatusWrite, absent, clear, Bool.false_eq_true, if_false])
  · exact (memWrite_kbsr v s).trans (by
      simp only [keyboardStatusWrite, absent, set, Bool.false_eq_true, if_false, if_true])
  · have unnamed := isDeviceRegister_eq_false_iff.2 unlisted
    exact ⟨fun range => memWrite_hole (readable_eq_false_of_mem_range unnamed range),
      fun range => ⟨_, memWrite_ordinary (ordinary_of_not_mem_range unnamed range), storedOnly_poke s a v⟩⟩

/-! ## Ordering (R59) -/

/-- The last store of a sequence is made last. -/
theorem Memory.writeAll_concat (m : Memory) (stores : List (Word × Word)) (e : Word × Word) :
    Memory.writeAll m (stores ++ [e]) = Memory.write (Memory.writeAll m stores) e.1 e.2 := by
  simp [Memory.writeAll]

/-- Settles O23, by induction on the sequence from its end: the last write decides its own location and leaves the
others to the writes before it. -/
theorem readGivesTheLatestWrite : Obligations.ReadGivesTheLatestWrite := by
  intro m stores a
  induction stores using List.reverseRecOn with
  | nil => rfl
  | append_singleton stores e ih =>
    rw [Memory.writeAll_concat, Memory.read_write, List.reverse_concat]
    by_cases same : e.1 = a
    · rw [List.find?_cons_of_pos (by simpa using same), if_pos same.symm]
      rfl
    · rw [List.find?_cons_of_neg (by simpa using same), if_neg (Ne.symm same), ih]

/-! ## Instruction-fetch coherence (R62, D15) -/

theorem storeTo_ordinary (h : s.ordinary a = true) : storeTo a v s = .next (s.poke a v) :=
  withWrite_of_ok (memWrite_ordinary h)

/-- The pointer read of STI changes neither the register stored nor which locations are ordinary. -/
theorem execSti_ordinary {u : State} {sr : Reg} {off : BitVec 9} (read : memRead (pcRelative s off) s = .ok (a, u))
    (h : s.ordinary a = true) : u.ordinary a = true ∧ execSti sr off s = .next (u.poke a (s.reg sr)) := by
  obtain ⟨regs, _, _, _, _, _, _, cfg, _⟩ := memRead_frame read
  have ordinary : u.ordinary a = true := by simpa [State.ordinary, cfg] using h
  have register : u.reg sr = s.reg sr := by simp [State.reg, regs]
  exact ⟨ordinary, by simp only [execSti, withRead_of_ok read, storeTo_ordinary ordinary, register]⟩

/-- A fetch from an ordinary location gives the instruction of its content and has no side effect. -/
theorem fetch_ordinary {i : Instr} (named : s.pc = a) (h : s.ordinary a = true) (decoded : decode (s.peek a) = .ok i) :
    fetch s = .ok (i, s.setPc (a + 1#16)) := by
  subst named
  exact fetch_of_decode (memRead_ordinary h) decoded

/-- Settles O32: each of the three stores leaves the word at its ordinary location, where a fetch reads it. -/
theorem storeIsSeenByTheNextFetch : Obligations.StoreIsSeenByTheNextFetch := by
  intro store i sr a s stores ordinary decoded
  have stored : ∃ u : State, u.ordinary a = true ∧ exec store s = .next (u.poke a (s.reg sr)) := by
    obtain ⟨off, rfl, rfl⟩ | ⟨off, u, rfl, read⟩ | ⟨base, off, rfl, rfl⟩ := stores
    · exact ⟨s, ordinary, storeTo_ordinary ordinary⟩
    · exact ⟨u, execSti_ordinary read ordinary⟩
    · exact ⟨s, ordinary, storeTo_ordinary ordinary⟩
  obtain ⟨u, ordinary, completes⟩ := stored
  have content : (u.poke a (s.reg sr)).peek a = s.reg sr := by simp
  rw [← content] at decoded
  exact ⟨_, completes, content, fetch_ordinary rfl ordinary decoded,
    fun named => fetch_ordinary named ordinary decoded⟩

end Sys2Proof.Machine
end

section
/-! SUPPORT. Proofs about spec/30_encoding.md, from the instruction to its word and back (R71, R75): each part of the
decoder gives back the operands of the formats it reads. -/

namespace Sys2Proof

section
variable (op : BitVec 4) (hi mid : BitVec 3)

/-! ## Fields and bits of an encoded word (R72) -/

@[simp] theorem fieldHi_format9 (r : Reg) (low : BitVec 9) : fieldHi (format9 op (bitsOf r) low) = r := by
  simp [fieldHi]

@[simp] theorem fieldHi_format6 (r : Reg) (low : BitVec 6) : fieldHi (format6 op (bitsOf r) mid low) = r := by
  simp [fieldHi]

@[simp] theorem fieldMid_format6 (r : Reg) (low : BitVec 6) : fieldMid (format6 op hi (bitsOf r) low) = r := by
  simp [fieldMid]

theorem format9_hi_field (low : BitVec 9) {i k : Nat} (h : i + k ≤ 3) :
    (format9 op hi low).extractLsb' (i + 9) k = hi.extractLsb' i k :=
  calc (op ++ hi ++ low).extractLsb' (i + 9) k
    _ = (op ++ hi).extractLsb' i k := BitVec.extractLsb'_append_eq_of_le (Nat.le_add_left 9 i)
    _ = hi.extractLsb' i k := BitVec.extractLsb'_append_eq_of_add_le h

theorem format9_getElem_hi (low : BitVec 9) {i : Nat} (h : i < 3) : (format9 op hi low)[i + 9] = hi[i] := by
  rw [BitVec.getElem_eq_extractLsb', format9_hi_field _ _ _ h, ← BitVec.getElem_eq_extractLsb']

theorem format6_getElem (low : BitVec 6) {i : Nat} (h : i < 6) : (format6 op hi mid low)[i] = low[i] := by
  rw [BitVec.getElem_eq_extractLsb', format6_field _ _ _ _ _ _ h, ← BitVec.getElem_eq_extractLsb']

theorem format12_getElem (low : BitVec 12) {i : Nat} (h : i < 12) : (format12 op low)[i] = low[i] := by
  rw [BitVec.getElem_eq_extractLsb', format12_field _ _ _ _ h, ← BitVec.getElem_eq_extractLsb']

theorem nzpBits_getElem (n z p : Bool) :
    (nzpBits n z p)[2] = n ∧ (nzpBits n z p)[1] = z ∧ (nzpBits n z p)[0] = p := by
  decide +revert

/-! ## The parts of the decoder on the words they read -/

theorem decodeOperate_register (reg : Reg → Reg → Reg → Instr) (imm : Reg → Reg → BitVec 5 → Instr) (dr sr1 sr2 : Reg) :
    decodeOperate reg imm (format6 op (bitsOf dr) (bitsOf sr1) (0#3 ++ bitsOf sr2)) = .ok (reg dr sr1 sr2) := by
  have bit : (0#3 ++ bitsOf sr2)[5] = false := BitVec.getElem_append _
  have zeros : (0#3 ++ bitsOf sr2).extractLsb' 3 2 = 0#2 := BitVec.extractLsb'_append_eq_of_le (by decide)
  have low : (0#3 ++ bitsOf sr2).extractLsb' 0 3 = bitsOf sr2 := BitVec.extractLsb'_append_eq_right
  simp [decodeOperate, fieldLo, format6_getElem, bit, zeros, low]

theorem decodeOperate_immediate (reg : Reg → Reg → Reg → Instr) (imm : Reg → Reg → BitVec 5 → Instr) (dr sr1 : Reg)
    (imm5 : BitVec 5) :
    decodeOperate reg imm (format6 op (bitsOf dr) (bitsOf sr1) (1#1 ++ imm5)) = .ok (imm dr sr1 imm5) := by
  have bit : (1#1 ++ imm5)[5] = true := BitVec.getElem_append _
  have low : (1#1 ++ imm5).extractLsb' 0 5 = imm5 := BitVec.extractLsb'_append_eq_right
  simp [decodeOperate, format6_getElem, bit, low]

theorem decodeJsr_offset (off : BitVec 11) : decodeJsr (format12 op (1#1 ++ off)) = .ok (.jsr off) := by
  have bit : (1#1 ++ off)[11] = true := BitVec.getElem_append _
  have low : (1#1 ++ off).extractLsb' 0 11 = off := BitVec.extractLsb'_append_eq_right
  simp [decodeJsr, format12_getElem, bit, low]

theorem decodeJsr_base (base : Reg) : decodeJsr (format6 op 0#3 (bitsOf base) 0#6) = .ok (.jsrr base) := by
  have bit : (format6 op 0#3 (bitsOf base) 0#6)[11] = false := by
    simp only [format6_eq]
    exact format9_getElem_hi op 0#3 _ (i := 2) (by decide)
  have zeros : (format6 op 0#3 (bitsOf base) 0#6).extractLsb' 9 2 = 0#2 := by
    rw [format6_eq]
    exact format9_hi_field op 0#3 _ (i := 0) (k := 2) (by decide)
  simp [decodeJsr, bit, zeros]

end

theorem trapOf_of_not_named {v : BitVec 8} (h : namedVector v = false) : trapOf v = .trap v := by
  decide +revert

/-! ## Decoding the word of an instruction (R71, R75) -/

/-- The decoder inverts the encoder on the well-formed instructions: the two that are not are JMP R7 and TRAP with a
named vector, whose words have a narrower name (R79, R92(c)). -/
theorem decode_encode (i : Instr) (wf : i.wellFormed = true) : decode (encode i) = .ok i := by
  cases i with
  | addReg | andReg => simp [encode, decode, decodeOperate_register]
  | addImm | andImm => simp [encode, decode, decodeOperate_immediate]
  | ld | ldi | ldr | lea | st | sti | str | not | rti | reserved => simp [encode, decode]
  | br => simp [encode, decode, format9_getElem_hi, nzpBits_getElem]
  | jmp base =>
    have not_ret : base ≠ .r7 := by simpa [Instr.wellFormed] using wf
    simp [encode, decode, decodeJmp, not_ret]
  | jsr => simp [encode, decode, decodeJsr_offset]
  | jsrr => simp [encode, decode, decodeJsr_base]
  | trap v =>
    have unnamed : namedVector v = false := by simpa [Instr.wellFormed] using wf
    have zeros : (0#4 ++ v).extractLsb' 8 4 = 0#4 := BitVec.extractLsb'_append_eq_left
    have low : (0#4 ++ v).extractLsb' 0 8 = v := BitVec.extractLsb'_append_eq_right
    simp [encode, decode, zeros, low, trapOf_of_not_named unnamed]
  | ret | getc | out | puts | inp | putsp | halt => rfl

/-- Settles O2, by cases on the instruction: the opcode selects its line of the decoder, which reads its operands. -/
theorem decodeOfEncodeIsTheInstruction : Obligations.DecodeOfEncodeIsTheInstruction := decode_encode

end Sys2Proof
end

section
/-! SUPPORT. Proofs about spec/30_encoding.md, from the word to its instruction (R75 to R79): a word is rebuilt from the
fields the decoder reads, or one of its fixed bits is wrong. -/

namespace Sys2Proof

variable {w : Word} {op : BitVec 4}

/-! ## A word from its fields (R71, R72) -/

/-- Two fields side by side are one. -/
theorem field_append (w : Word) (i k j : Nat) :
    w.extractLsb' (i + k) j ++ w.extractLsb' i k = w.extractLsb' i (j + k) :=
  BitVec.extractLsb'_append_extractLsb'_eq_extractLsb' rfl

/-- A bit is a field of width 1. -/
theorem field_of_getLsbD {i : Nat} {b : Bool} (bit : w.getLsbD i = b) : w.extractLsb' i 1 = BitVec.ofBool b := by
  rw [← bit, BitVec.getLsbD_eq_extractLsb']
  generalize w.extractLsb' i 1 = x
  decide +revert

theorem bitsOf_fieldHi (w : Word) : bitsOf (fieldHi w) = w.extractLsb' 9 3 := bitsOf_regOf _

theorem bitsOf_fieldMid (w : Word) : bitsOf (fieldMid w) = w.extractLsb' 6 3 := bitsOf_regOf _

theorem bitsOf_fieldLo (w : Word) : bitsOf (fieldLo w) = w.extractLsb' 0 3 := bitsOf_regOf _

theorem format12_of_fields (h : opcodeOf w = op) : format12 op (w.extractLsb' 0 12) = w := by
  subst h
  exact (field_append w 0 12 4).trans BitVec.extractLsb'_eq_self

theorem format9_of_fields (h : opcodeOf w = op) : format9 op (w.extractLsb' 9 3) (w.extractLsb' 0 9) = w := by
  have low : w.extractLsb' 9 3 ++ w.extractLsb' 0 9 = w.extractLsb' 0 12 := field_append w 0 9 3
  calc op ++ w.extractLsb' 9 3 ++ w.extractLsb' 0 9
    _ = format12 op (w.extractLsb' 9 3 ++ w.extractLsb' 0 9) := BitVec.append_assoc
    _ = w := by rw [low]; exact format12_of_fields h

theorem format6_of_fields (h : opcodeOf w = op) :
    format6 op (w.extractLsb' 9 3) (w.extractLsb' 6 3) (w.extractLsb' 0 6) = w := by
  have low : w.extractLsb' 6 3 ++ w.extractLsb' 0 6 = w.extractLsb' 0 9 := field_append w 0 6 3
  rw [format6_eq, low]
  exact format9_of_fields h

theorem format9_of_register (h : opcodeOf w = op) : format9 op (bitsOf (fieldHi w)) (w.extractLsb' 0 9) = w := by
  rw [bitsOf_fieldHi, format9_of_fields h]

theorem format6_of_registers (h : opcodeOf w = op) :
    format6 op (bitsOf (fieldHi w)) (bitsOf (fieldMid w)) (w.extractLsb' 0 6) = w := by
  rw [bitsOf_fieldHi, bitsOf_fieldMid, format6_of_fields h]

theorem nzpBits_of_bits (w : Word) : nzpBits (w.getLsbD 11) (w.getLsbD 10) (w.getLsbD 9) = w.extractLsb' 9 3 := by
  have two : w.extractLsb' 11 1 ++ w.extractLsb' 10 1 = w.extractLsb' 10 2 := field_append w 10 1 1
  have three : w.extractLsb' 10 2 ++ w.extractLsb' 9 1 = w.extractLsb' 9 3 := field_append w 9 1 2
  rw [nzpBits, ← field_of_getLsbD rfl, ← field_of_getLsbD rfl, ← field_of_getLsbD rfl, two, three]

/-! ## The operands of the formats with fixed bits -/

theorem registerForm_of_fields (bit : w.getLsbD 5 = false) (zeros : w.extractLsb' 3 2 = 0#2) :
    0#3 ++ bitsOf (fieldLo w) = w.extractLsb' 0 6 := by
  have upper : w.extractLsb' 3 3 = 0#3 := by
    rw [← field_append w 3 2 1, field_of_getLsbD bit, zeros]
    rfl
  rw [← field_append w 0 3 3, upper, bitsOf_fieldLo]

theorem immediateForm_of_fields (bit : w.getLsbD 5 = true) : 1#1 ++ w.extractLsb' 0 5 = w.extractLsb' 0 6 := by
  rw [← field_append w 0 5 1, field_of_getLsbD bit]
  rfl

theorem offsetForm_of_fields (bit : w.getLsbD 11 = true) : 1#1 ++ w.extractLsb' 0 11 = w.extractLsb' 0 12 := by
  rw [← field_append w 0 11 1, field_of_getLsbD bit]
  rfl

theorem baseForm_of_fields (bit : w.getLsbD 11 = false) (zeros : w.extractLsb' 9 2 = 0#2) :
    w.extractLsb' 9 3 = 0#3 := by
  rw [← field_append w 9 2 1, field_of_getLsbD bit, zeros]
  rfl

theorem vectorForm_of_fields (zeros : w.extractLsb' 8 4 = 0#4) : 0#4 ++ w.extractLsb' 0 8 = w.extractLsb' 0 12 := by
  rw [← field_append w 0 8 4, zeros]

theorem encode_trapOf (v : BitVec 8) : encode (trapOf v) = encode (.trap v) := by
  decide +revert

theorem wellFormed_trapOf (v : BitVec 8) : (trapOf v).wellFormed = true := by
  decide +revert

/-! ## What the decoder can answer -/

/-- A bit that Figure A.2 fixes does not hold its value (R77): in the register forms of ADD and AND, in NOT, JMP, JSRR,
RTI and TRAP. -/
def WrongFixedBit (w : Word) : Prop :=
  ((opcodeOf w = 0x1#4 ∧ w.getLsbD 5 = false) ∧ w.extractLsb' 3 2 ≠ 0#2) ∨
  ((opcodeOf w = 0x5#4 ∧ w.getLsbD 5 = false) ∧ w.extractLsb' 3 2 ≠ 0#2) ∨
  (opcodeOf w = 0x9#4 ∧ w.extractLsb' 0 6 ≠ 0x3F#6) ∨
  (opcodeOf w = 0xC#4 ∧ ¬(w.extractLsb' 9 3 = 0#3 ∧ w.extractLsb' 0 6 = 0#6)) ∨
  ((opcodeOf w = 0x4#4 ∧ w.getLsbD 11 = false) ∧ ¬(w.extractLsb' 9 2 = 0#2 ∧ w.extractLsb' 0 6 = 0#6)) ∨
  (opcodeOf w = 0x8#4 ∧ w.extractLsb' 0 12 ≠ 0#12) ∨
  (opcodeOf w = 0xF#4 ∧ w.extractLsb' 8 4 ≠ 0#4)

/-- The answer is the right one for the word: the well-formed instruction whose word it is, or the refusal of a word
with a wrong fixed bit. -/
def AnswersFor (w : Word) : Except DecodeReject Instr → Prop
  | .ok i => encode i = w ∧ i.wellFormed = true
  | .error r => r = .fixedBits w ∧ WrongFixedBit w

/-- ADD and AND: the hypotheses say what the two share. -/
theorem answersFor_decodeOperate {reg : Reg → Reg → Reg → Instr} {imm : Reg → Reg → BitVec 5 → Instr}
    (opcode : opcodeOf w = op)
    (register : ∀ dr sr1 sr2,
      AnswersFor (format6 op (bitsOf dr) (bitsOf sr1) (0#3 ++ bitsOf sr2)) (.ok (reg dr sr1 sr2)))
    (immediate : ∀ dr sr1 imm5,
      AnswersFor (format6 op (bitsOf dr) (bitsOf sr1) (1#1 ++ imm5)) (.ok (imm dr sr1 imm5)))
    (wrong : w.getLsbD 5 = false → w.extractLsb' 3 2 ≠ 0#2 → WrongFixedBit w) :
    AnswersFor w (decodeOperate reg imm w) := by
  unfold decodeOperate
  split_ifs with bit zeros
  · simpa only [immediateForm_of_fields bit, format6_of_registers opcode] using
      immediate (fieldHi w) (fieldMid w) (w.extractLsb' 0 5)
  · simpa only [registerForm_of_fields (Bool.eq_false_of_not_eq_true bit) zeros, format6_of_registers opcode] using
      register (fieldHi w) (fieldMid w) (fieldLo w)
  · exact ⟨rfl, wrong (Bool.eq_false_of_not_eq_true bit) zeros⟩

theorem encode_jmp_of_fields (opcode : opcodeOf w = 12#4)
    (zeros : w.extractLsb' 9 3 = 0#3 ∧ w.extractLsb' 0 6 = 0#6) : encode (.jmp (fieldMid w)) = w := by
  obtain ⟨upper, lower⟩ := zeros
  rw [encode, ← upper, ← lower, bitsOf_fieldMid, format6_of_fields opcode]

theorem answersFor_decodeJmp (opcode : opcodeOf w = 12#4) : AnswersFor w (decodeJmp w) := by
  unfold decodeJmp
  split_ifs with zeros r7
  · have word := encode_jmp_of_fields opcode zeros
    rw [r7] at word
    exact ⟨word, rfl⟩
  · exact ⟨encode_jmp_of_fields opcode zeros, bne_iff_ne.2 r7⟩
  · exact ⟨rfl, .inr (.inr (.inr (.inl ⟨opcode, zeros⟩)))⟩

theorem answersFor_decodeJsr (opcode : opcodeOf w = 4#4) : AnswersFor w (decodeJsr w) := by
  unfold decodeJsr
  split_ifs with bit zeros
  · refine ⟨?_, rfl⟩
    rw [encode, offsetForm_of_fields bit, format12_of_fields opcode]
  · obtain ⟨upper, lower⟩ := zeros
    refine ⟨?_, rfl⟩
    rw [encode, ← baseForm_of_fields (Bool.eq_false_of_not_eq_true bit) upper, ← lower, bitsOf_fieldMid,
      format6_of_fields opcode]
  · exact ⟨rfl, .inr (.inr (.inr (.inr (.inl ⟨⟨opcode, Bool.eq_false_of_not_eq_true bit⟩, zeros⟩))))⟩

theorem answersFor_trapOf (opcode : opcodeOf w = 15#4) (zeros : w.extractLsb' 8 4 = 0#4) :
    AnswersFor w (.ok (trapOf (w.extractLsb' 0 8))) := by
  refine ⟨?_, wellFormed_trapOf _⟩
  rw [encode_trapOf, encode, vectorForm_of_fields zeros, format12_of_fields opcode]

/-- The decoder is right for every word, by its line for the word's opcode (R74). -/
theorem answersFor_decode (w : Word) : AnswersFor w (decode w) := by
  have opcode {op : BitVec 4} (h : (opcodeOf w).toNat = op.toNat) : opcodeOf w = op := BitVec.eq_of_toNat_eq h
  unfold decode
  split
  case h_1 h =>
    refine ⟨?_, rfl⟩
    rw [encode, nzpBits_of_bits, format9_of_fields (opcode (op := 0#4) h)]
  case h_2 h =>
    exact answersFor_decodeOperate (opcode (op := 1#4) h) (fun _ _ _ => ⟨rfl, rfl⟩) (fun _ _ _ => ⟨rfl, rfl⟩)
      fun register wrong => .inl ⟨⟨opcode h, register⟩, wrong⟩
  case h_6 h =>
    exact answersFor_decodeOperate (opcode (op := 5#4) h) (fun _ _ _ => ⟨rfl, rfl⟩) (fun _ _ _ => ⟨rfl, rfl⟩)
      fun register wrong => .inr (.inl ⟨⟨opcode h, register⟩, wrong⟩)
  case h_3 h | h_4 h | h_11 h | h_12 h | h_15 h => exact ⟨format9_of_register (opcode h), rfl⟩
  case h_5 h => exact answersFor_decodeJsr (opcode h)
  case h_7 h | h_8 h => exact ⟨format6_of_registers (opcode h), rfl⟩
  case h_9 h =>
    have opcode : opcodeOf w = 8#4 := opcode h
    split_ifs with zeros
    · refine ⟨?_, rfl⟩
      rw [encode, ← zeros, format12_of_fields opcode]
    · exact ⟨rfl, .inr (.inr (.inr (.inr (.inr (.inl ⟨opcode, zeros⟩)))))⟩
  case h_10 h =>
    have opcode : opcodeOf w = 9#4 := opcode h
    split_ifs with ones
    · refine ⟨?_, rfl⟩
      rw [encode, ← ones, format6_of_registers opcode]
    · exact ⟨rfl, .inr (.inr (.inl ⟨opcode, ones⟩))⟩
  case h_13 h => exact answersFor_decodeJmp (opcode h)
  case h_14 h => exact ⟨format12_of_fields (opcode h), rfl⟩
  case h_16 =>
    have below : (opcodeOf w).toNat < 16 := (opcodeOf w).isLt
    have opcode : opcodeOf w = 15#4 := opcode (show (opcodeOf w).toNat = 15 by grind)
    split_ifs with zeros
    · exact answersFor_trapOf opcode zeros
    · exact ⟨rfl, .inr (.inr (.inr (.inr (.inr (.inr ⟨opcode, zeros⟩)))))⟩

/-- Settles O3: an answer that is an instruction is the right one. -/
theorem encodeOfDecodeIsTheWord : Obligations.EncodeOfDecodeIsTheWord := by
  intro w i decoded
  have right := answersFor_decode w
  rwa [decoded] at right

end Sys2Proof
end

section
/-! SUPPORT. Proofs about spec/30_encoding.md, words by their bits (R76, R77): a mask of one or two fields tests these
fields, so the statements' masks are the decoder's conditions. -/

namespace Sys2Proof

variable {w m v : Word}

/-! ## Masks of fields -/

/-- The word that holds `c` at bits `i` and up, and 0 elsewhere. -/
def fieldAt (i : Nat) {k : Nat} (c : BitVec k) : Word := c.setWidth 16 <<< i

theorem getLsbD_fieldAt (i : Nat) {k : Nat} (c : BitVec k) (j : Nat) :
    (fieldAt i c).getLsbD j = (decide (j < 16) && decide (i ≤ j) && c.getLsbD (j - i)) := by
  simp only [fieldAt, BitVec.getLsbD_shiftLeft, BitVec.getLsbD_setWidth]
  grind

theorem and_fieldAt_allOnes (w : Word) (i k : Nat) :
    w &&& fieldAt i (BitVec.allOnes k) = fieldAt i (w.extractLsb' i k) := by
  apply BitVec.eq_of_getLsbD_eq
  intro j hj
  simp only [BitVec.getLsbD_and, getLsbD_fieldAt, BitVec.getLsbD_allOnes, BitVec.getLsbD_extractLsb']
  by_cases above : i ≤ j
  · simp only [hj, above, Nat.add_sub_of_le, decide_true, Bool.true_and, Bool.and_comm]
  · simp only [above, decide_false, Bool.and_false, Bool.false_and]

/-- Two fields that lie apart are read back. -/
theorem extractLsb'_fieldAt_or {i k i' k' : Nat} (apart : i + k ≤ i') (within : i' + k' ≤ 16) (c : BitVec k)
    (c' : BitVec k') :
    (fieldAt i' c' ||| fieldAt i c).extractLsb' i' k' = c' ∧ (fieldAt i' c' ||| fieldAt i c).extractLsb' i k = c := by
  constructor <;> apply BitVec.eq_of_getLsbD_eq <;> intro j hj
  · have inside : i' + j < 16 := by omega
    have other : c.getLsbD (i' + j - i) = false := BitVec.getLsbD_of_ge _ _ (by omega)
    simp only [BitVec.getLsbD_extractLsb', BitVec.getLsbD_or, getLsbD_fieldAt, hj, inside, other, Nat.le_add_right,
      Nat.add_sub_cancel_left, decide_true, Bool.true_and, Bool.and_false, Bool.or_false]
  · have inside : i + j < 16 := by omega
    have other : ¬i' ≤ i + j := by omega
    simp only [BitVec.getLsbD_extractLsb', BitVec.getLsbD_or, getLsbD_fieldAt, hj, inside, other, Nat.le_add_right,
      Nat.add_sub_cancel_left, decide_true, decide_false, Bool.true_and, Bool.and_false, Bool.false_and, Bool.false_or]

/-- A mask of two fields that lie apart tests both. -/
theorem and_two_fields_eq_iff (i' i : Nat) {k' k : Nat} {c' : BitVec k'} {c : BitVec k}
    (mask : m = fieldAt i' (BitVec.allOnes k') ||| fieldAt i (BitVec.allOnes k))
    (value : v = fieldAt i' c' ||| fieldAt i c) (apart : i + k ≤ i') (within : i' + k' ≤ 16) :
    w &&& m = v ↔ w.extractLsb' i' k' = c' ∧ w.extractLsb' i k = c := by
  rw [mask, value, BitVec.and_or_distrib_left, and_fieldAt_allOnes, and_fieldAt_allOnes]
  constructor
  · intro same
    obtain ⟨upper, lower⟩ := extractLsb'_fieldAt_or apart within (w.extractLsb' i k) (w.extractLsb' i' k')
    obtain ⟨upper_value, lower_value⟩ := extractLsb'_fieldAt_or apart within c c'
    rw [same] at upper lower
    exact ⟨upper.symm.trans upper_value, lower.symm.trans lower_value⟩
  · rintro ⟨rfl, rfl⟩
    rfl

/-- A mask of one field tests it: the other field is empty. -/
theorem and_field_eq_iff (i : Nat) {k : Nat} {c : BitVec k} (mask : m = fieldAt i (BitVec.allOnes k))
    (value : v = fieldAt i c) (within : i + k ≤ 16) : w &&& m = v ↔ w.extractLsb' i k = c :=
  (and_two_fields_eq_iff i 0 (c := 0#0) (by simp [mask, fieldAt]) (by simp [value, fieldAt]) i.zero_le within).trans
    (and_iff_left (Subsingleton.elim _ _))

/-- A mask of the opcode and one lower bit. -/
theorem and_opcode_bit_eq_iff (i : Nat) {op : BitVec 4} (mask : m = fieldAt 12 0xF#4 ||| fieldAt i 1#1)
    (value : v = fieldAt 12 op) (below : i + 1 ≤ 12) : w &&& m = v ↔ opcodeOf w = op ∧ w.getLsbD i = false := by
  have clear : w.extractLsb' i 1 = 0#1 ↔ w.getLsbD i = false := by
    rw [field_of_getLsbD rfl]
    cases w.getLsbD i <;> decide
  rw [← clear]
  exact and_two_fields_eq_iff 12 i mask (by simp [value, fieldAt]) below (by decide)

/-! ## The words that are refused (R77, D13) -/

theorem decode_of_wrongFixedBit (h : WrongFixedBit w) : decode w = .error (.fixedBits w) := by
  obtain ⟨⟨op, bit⟩, wrong⟩ | ⟨⟨op, bit⟩, wrong⟩ | ⟨op, wrong⟩ | ⟨op, wrong⟩ | ⟨⟨op, bit⟩, wrong⟩ | ⟨op, wrong⟩ |
    ⟨op, wrong⟩ := h
  · simp [decode, op, decodeOperate, bit, wrong, -BitVec.getLsbD_eq_getElem]
  · simp [decode, op, decodeOperate, bit, wrong, -BitVec.getLsbD_eq_getElem]
  · simp [decode, op, wrong]
  · simp [decode, op, decodeJmp, if_neg wrong]
  · simp [decode, op, decodeJsr, bit, if_neg wrong, -BitVec.getLsbD_eq_getElem]
  · simp [decode, op, wrong]
  · simp [decode, op, wrong]

theorem decode_eq_error_iff : decode w = .error (.fixedBits w) ↔ WrongFixedBit w := by
  refine ⟨fun rejected => ?_, decode_of_wrongFixedBit⟩
  have right := answersFor_decode w
  rw [rejected] at right
  obtain ⟨_, wrong⟩ := right
  exact wrong

/-- Settles O4: each mask of a format is its opcode and fixed bits. -/
theorem rejectedWordsHaveAWrongFixedBit : Obligations.RejectedWordsHaveAWrongFixedBit := by
  intro w
  have opcode (op : BitVec 4) : w &&& 0xF000#16 = fieldAt 12 op ↔ opcodeOf w = op :=
    and_field_eq_iff 12 rfl rfl (by decide)
  have register (op : BitVec 4) : w &&& 0xF020#16 = fieldAt 12 op ↔ opcodeOf w = op ∧ w.getLsbD 5 = false :=
    and_opcode_bit_eq_iff 5 rfl rfl (by decide)
  have base : w &&& 0xF800#16 = 0x4000#16 ↔ opcodeOf w = 4#4 ∧ w.getLsbD 11 = false :=
    and_opcode_bit_eq_iff 11 rfl rfl (by decide)
  have operate_bits : w &&& 0x0018#16 = 0#16 ↔ w.extractLsb' 3 2 = 0#2 := and_field_eq_iff 3 rfl rfl (by decide)
  have not_bits : w &&& 0x003F#16 = 0x003F#16 ↔ w.extractLsb' 0 6 = 0x3F#6 := and_field_eq_iff 0 rfl rfl (by decide)
  have jmp_bits : w &&& 0x0E3F#16 = 0#16 ↔ w.extractLsb' 9 3 = 0#3 ∧ w.extractLsb' 0 6 = 0#6 :=
    and_two_fields_eq_iff 9 0 rfl rfl (by decide) (by decide)
  have jsrr_bits : w &&& 0x063F#16 = 0#16 ↔ w.extractLsb' 9 2 = 0#2 ∧ w.extractLsb' 0 6 = 0#6 :=
    and_two_fields_eq_iff 9 0 rfl rfl (by decide) (by decide)
  have rti_bits : w &&& 0x0FFF#16 = 0#16 ↔ w.extractLsb' 0 12 = 0#12 := and_field_eq_iff 0 rfl rfl (by decide)
  have trap_bits : w &&& 0x0F00#16 = 0#16 ↔ w.extractLsb' 8 4 = 0#4 := and_field_eq_iff 8 rfl rfl (by decide)
  refine decode_eq_error_iff.trans (Iff.symm ?_)
  exact or_congr (and_congr (register 0x1#4) (not_congr operate_bits)) <|
    or_congr (and_congr (register 0x5#4) (not_congr operate_bits)) <|
    or_congr (and_congr (opcode 0x9#4) (not_congr not_bits)) <|
    or_congr (and_congr (opcode 0xC#4) (not_congr jmp_bits)) <|
    or_congr (and_congr base (not_congr jsrr_bits)) <|
    or_congr (and_congr (opcode 0x8#4) (not_congr rti_bits)) (and_congr (opcode 0xF#4) (not_congr trap_bits))

/-! ## The reserved opcode (R76) -/

/-- Settles O5: the reserved instruction's word has opcode 1101, and for that opcode the decoder looks no further. -/
theorem reservedWordsAreThoseOfOpcode1101 : Obligations.ReservedWordsAreThoseOfOpcode1101 := by
  intro w
  have mask : w &&& 0xF000#16 = 0xD000#16 ↔ opcodeOf w = 0xD#4 := and_field_eq_iff 12 rfl rfl (by decide)
  rw [mask]
  constructor
  · rintro ⟨low, decoded⟩
    obtain ⟨word, _⟩ := encodeOfDecodeIsTheWord w _ decoded
    exact word ▸ Laws.OpcodeField.reserved low
  · intro opcode
    exact ⟨w.extractLsb' 0 12, by simp [decode, opcode]⟩

end Sys2Proof
end

section
/-! SUPPORT. Proofs about spec/30_encoding.md, what the words do: the spec's own words (R71), the named trap vectors
(R92(c)) and a fetch that gives no instruction (R77). -/

namespace Sys2Proof.Machine

variable {s u : State}

/-- Settles O1: the decoder evaluated on each word. -/
theorem specWordsDecode : Obligations.SpecWordsDecode := by
  unfold Obligations.SpecWordsDecode
  decide

/-! ## The named trap vectors (R92(c), R151, R160) -/

theorem exec_of_mem_namedTraps {i : Instr} {v : BitVec 8} (named : (i, v) ∈ namedTraps) (s : State) :
    exec i s = exec (.trap v) s := by
  simp only [namedTraps, List.mem_cons, Prod.mk.injEq, List.not_mem_nil, or_false] at named
  obtain ⟨rfl, rfl⟩ | ⟨rfl, rfl⟩ | ⟨rfl, rfl⟩ | ⟨rfl, rfl⟩ | ⟨rfl, rfl⟩ | ⟨rfl, rfl⟩ := named <;> rfl

/-- TRAP through an ordinary entry of the Trap Vector Table links and jumps. -/
theorem trapVectored_ordinary {v : BitVec 8} (entry : s.ordinary (trapEntry v) = true) :
    trapVectored v s = .next ((link s).setPc (s.peek (trapEntry v))) :=
  withRead_of_ok (memRead_ordinary (s := link s) entry)

theorem jumpOnly_link_setPc (s : State) (target : Word) : JumpOnly target [.r7] s ((link s).setPc target) := by
  have others : SameRegsBut [.r7] s ((link s).setPc target) := fun r hr => by
    have ne : r ≠ .r7 := by simpa using hr
    simp [link, ne]
  exact ⟨rfl, others, ⟨rfl, rfl, rfl⟩, ⟨rfl, rfl⟩, ⟨rfl, rfl⟩, fun _ _ => rfl, rfl, rfl, rfl, rfl, rfl⟩

/-- Settles O40: a name's arm is that of its vector, and TRAP completes through its table entry. -/
theorem namedTrapsAreTrapWithTheirVector : Obligations.NamedTrapsAreTrapWithTheirVector := by
  intro i v s named
  have same := exec_of_mem_namedTraps named s
  refine ⟨same, fun vectored entry => ?_⟩
  have completes : exec (.trap v) s = .next ((link s).setPc (s.peek (trapEntry v))) :=
    (trapCall_of_vectored vectored).trans (trapVectored_ordinary entry)
  exact ⟨_, same.trans completes, rfl, jumpOnly_link_setPc s _⟩

/-! ## A fetch that gives no instruction (R77, U10) -/

theorem fetch_of_rejected {w : Word} (read : memRead s.pc s = .ok (w, u))
    (rejected : decode w = .error (.fixedBits w)) :
    fetch s = .error (.nonCanonicalWord w) := by
  simp only [fetch, read, rejected]

theorem fetch_of_hole (hole : s.readable s.pc = false) : fetch s = .error (.deviceHole s.pc) := by
  simp only [fetch, memRead_hole hole]

theorem runInstruction_of_fetch_error {r : Refusal} (refused : fetch s = .error r) : runInstruction s = .refused r := by
  simp only [runInstruction, refused]

/-- Settles O48: the round is the fetch at the PC, which the environment's turn leaves alone, and the fetch refuses. -/
theorem stepRefusesWhatIsNoInstruction : Obligations.StepRefusesWhatIsNoInstruction := by
  intro s running free none_accepted
  rw [step_of_not_accepted running free none_accepted]
  exact ⟨fun u w read rejected => runInstruction_of_fetch_error (fetch_of_rejected read rejected),
    fun hole => runInstruction_of_fetch_error (fetch_of_hole (s := s.afterTurn) hole)⟩

end Sys2Proof.Machine
end

section
/-! SUPPORT. Proofs about spec/40_operate.md: ADD, AND and NOT (R100 to R104). Each ends with `setResult`, whose frame is
proved once; what is left of an instruction is the value of its result. -/

namespace Sys2Proof.Machine

variable {n : Nat}

/-! ## The end of an instruction with a result (R27) -/

theorem State.reg_setResult_same (s : State) (dr : Reg) (v : Word) : (s.setResult dr v).reg dr = v := by
  rw [State.reg_setResult, if_pos rfl]

theorem resultOnly_setResult (s : State) (dr : Reg) (v : Word) : ResultOnly dr v s (s.setResult dr v) := by
  have others : SameRegsBut [dr] s (s.setResult dr v) := fun r hr =>
    (State.reg_setResult s dr r v).trans (if_neg (by simpa using hr))
  exact ⟨s.reg_setResult_same dr v, flagsShow_setcc _ v, others, rfl, ⟨rfl, rfl⟩, ⟨rfl, rfl⟩, fun _ _ => rfl, rfl,
    rfl, rfl, rfl, rfl⟩

/-! ## The values of the results -/

/-- Adding a sign-extended field is the exact signed sum, taken modulo 2^16 (D4). -/
theorem add_sext16 (a : Word) (v : BitVec n) (hn : n ≤ 16) :
    a + sext16 v = BitVec.ofInt 16 (a.toInt + v.toInt) := by
  rw [← toInt_sext16 v hn, BitVec.ofInt_add, BitVec.ofInt_toInt, BitVec.ofInt_toInt]

theorem getLsbD_and_imm5 (a : Word) (imm5 : BitVec 5) {i : Nat} (hi : i < 16) :
    (a &&& sext16 imm5).getLsbD i = (a.getLsbD i && imm5.getLsbD (min i 4)) := by
  rw [BitVec.getLsbD_and, getLsbD_sext16 imm5 hi]
  split
  case isTrue inside => rw [min_eq_left (by omega)]
  case isFalse above => rw [min_eq_right (by omega)]

/-- The complement of a word is what it lacks to xFFFF. -/
theorem not_eq_ofNat_sub (a : Word) : ~~~a = BitVec.ofNat 16 (65535 - a.toNat) := by
  bv_omega

/-! ## ADD, AND, NOT -/

/-- Settles O12: the result's frame, and each sum as a number: unsigned for two registers, signed for an immediate. -/
theorem addSumsModulo : Obligations.AddSumsModulo := by
  refine ⟨fun dr sr1 sr2 s => ⟨s.setResult dr (s.reg sr1 + s.reg sr2), rfl, ?_⟩,
    fun dr sr1 imm5 s => ⟨s.setResult dr (s.reg sr1 + sext16 imm5), rfl, ?_⟩⟩
  · rw [← BitVec.add_def]
    exact resultOnly_setResult s dr _
  · rw [← add_sext16 _ imm5 (by decide)]
    exact resultOnly_setResult s dr _

/-- Settles O13: DR holds the conjunction, and bit i of the extended immediate is bit i or, from bit 4 on, bit 4. -/
theorem andActsOnEveryBit : Obligations.AndActsOnEveryBit := by
  refine ⟨fun dr sr1 sr2 s => ⟨s.setResult dr (s.reg sr1 &&& s.reg sr2), rfl, ?_⟩,
    fun dr sr1 imm5 s => ⟨s.setResult dr (s.reg sr1 &&& sext16 imm5), rfl, ?_⟩⟩
  · rw [State.reg_setResult_same]
    exact ⟨fun _ => BitVec.getLsbD_and, resultOnly_setResult s dr _⟩
  · rw [State.reg_setResult_same]
    exact ⟨fun _ hi => getLsbD_and_imm5 _ imm5 hi, resultOnly_setResult s dr _⟩

/-- Settles O14: the result's frame, and the complement as a difference from xFFFF. -/
theorem notComplements : Obligations.NotComplements := by
  refine fun dr sr s => ⟨s.setResult dr (~~~s.reg sr), rfl, ?_⟩
  rw [← not_eq_ofNat_sub]
  exact resultOnly_setResult s dr _

end Sys2Proof.Machine
end

section
/-! SUPPORT. Proofs about spec/41_control.md: BR, JMP, RET, JSR, JSRR (R110 to R116). Each completes by moving the PC, the
calls after writing the link; the frames of both are proved once, and what is left of an instruction is its target. -/

namespace Sys2Proof.Machine

variable {s t : State}

/-! ## The frame and the targets of a jump -/

theorem jumpOnly_setPc (s : State) (target : Word) : JumpOnly target [] s (s.setPc target) :=
  ⟨rfl, fun _ _ => rfl, ⟨rfl, rfl, rfl⟩, ⟨rfl, rfl⟩, ⟨rfl, rfl⟩, fun _ _ => rfl, rfl, rfl, rfl, rfl, rfl⟩

/-- A PC-relative address is the exact signed sum, taken modulo 2^16 (D4). -/
theorem pcRelative_eq_ofInt {n : Nat} (s : State) (off : BitVec n) (hn : n ≤ 16) :
    pcRelative s off = BitVec.ofInt 16 (s.pc.toInt + off.toInt) :=
  add_sext16 s.pc off hn

theorem Psr.tests_iff (q : Psr) (n z p : Bool) :
    q.tests n z p = true ↔ (n = true ∧ q.n = true) ∨ (z = true ∧ q.z = true) ∨ (p = true ∧ q.p = true) := by
  simp [Psr.tests, or_assoc]

/-! ## BR, JMP, RET -/

/-- Settles O15: taken, the PC moves to the PC-relative address; not taken, it stays, and so does all the rest. -/
theorem branchTakenOnATestedCode : Obligations.BranchTakenOnATestedCode := by
  intro n z p off s
  simp only [exec, execBr, Psr.tests_iff]
  split_ifs
  case pos taken =>
    rw [← pcRelative_eq_ofInt s off (by decide)]
    exact ⟨_, rfl, jumpOnly_setPc s _⟩
  case neg untaken => exact ⟨s, rfl, jumpOnly_setPc s s.pc⟩

/-- Settles O16: JMP moves the PC and ends. -/
theorem jmpLoadsThePc : Obligations.JmpLoadsThePc := fun base s => ⟨_, rfl, jumpOnly_setPc s (s.reg base)⟩

/-- Settles O17: RET's word by evaluation; its arm and that of JMP R7 both move the PC to R7. -/
theorem retLoadsThePcFromR7 : Obligations.RetLoadsThePcFromR7 :=
  ⟨by decide, fun s => ⟨_, rfl, rfl, jumpOnly_setPc s (s.reg .r7)⟩⟩

/-! ## JSR, JSRR -/

/-- The fixed bit 11 joins the opcode in front of the offset (R113). -/
theorem encode_jsr (off : BitVec 11) : encode (.jsr off) = 0b01001#5 ++ off :=
  calc 0b0100#4 ++ (0b1#1 ++ off)
    _ = (0b0100#4 ++ 0b1#1 ++ off).cast rfl := BitVec.append_assoc'
    _ = 0b01001#5 ++ off := BitVec.cast_eq rfl _

theorem reg_link (s : State) (r : Reg) : (link s).reg r = if r = .r7 then s.pc else s.reg r :=
  State.reg_setReg s .r7 r s.pc

/-- JSRR reads its base after the link, where R7 is the incremented PC already, or before it (D14). -/
theorem execJsrr_eq (base : Reg) (s : State) : execJsrr base s = .next ((link s).setPc
    (if base = .r7 ∧ s.cfg.jsrrBaseRead = .afterLink then s.pc else s.reg base)) := by
  unfold execJsrr
  cases s.cfg.jsrrBaseRead with
  | afterLink => simp only [reg_link, and_true]
  | beforeLink => simp only [reduceCtorEq, and_false, if_false]

/-- Settles O18: JSR links and moves the PC to the PC-relative address. -/
theorem jsrLinksAndJumps : Obligations.JsrLinksAndJumps := by
  intro off s
  rw [← pcRelative_eq_ofInt s off (by decide)]
  exact ⟨encode_jsr off, _, rfl, rfl, jumpOnly_link_setPc s _⟩

/-- Settles O19: JSRR links and moves the PC to the base register as it was read. -/
theorem jsrrLinksAndJumps : Obligations.JsrrLinksAndJumps := fun base s =>
  ⟨_, execJsrr_eq base s, rfl, jumpOnly_link_setPc s _⟩

/-! ## The linkage (R115) -/

/-- The registers are those with the link written, and no location differs: the call used no stack. -/
def LinkedOnly (s t : State) : Prop := t.regs = (link s).regs ∧ t.mem = s.mem

theorem linkedOnly_link_setPc (s : State) (target : Word) : LinkedOnly s ((link s).setPc target) := ⟨rfl, rfl⟩

theorem LinkedOnly.reg (h : LinkedOnly s t) (r : Reg) : t.reg r = if r = .r7 then s.pc else s.reg r := by
  obtain ⟨regs, _⟩ := h
  rw [← reg_link, State.reg, regs, State.reg]

theorem LinkedOnly.sameMemory (h : LinkedOnly s t) : SameMemoryBut [] s t := by
  obtain ⟨_, mem⟩ := h
  intro a _
  rw [State.peek, mem, State.peek]

theorem linkedOnly_trapVectored {v : BitVec 8} (h : trapVectored v s = .next t) : LinkedOnly s t := by
  obtain ⟨_, _, read, ⟨⟩⟩ := withRead_next h
  obtain ⟨regs, _, _, _, _, mem, _⟩ := memRead_frame read
  exact ⟨regs, mem⟩

/-! ## The link through the services of TRAP_MODE = abstract (R160) -/

/-- The next state, if there is one, has the R7 of this state. -/
def KeepsR7 (s : State) (r : Result) : Prop := NextMeets (fun t => t.reg .r7 = s.reg .r7) r

theorem keepsR7_awaitKey (k : KeyService) (s : State) : KeepsR7 s (awaitKey k s) := by
  obtain ⟨_, ready⟩ | ⟨_, waits⟩ := awaitKey_cases k s
  · rw [ready]
    cases k <;> exact nextMeets_next rfl
  · exact waits ▸ nextMeets_next rfl

theorem keepsR7_putsService (s : State) : KeepsR7 s (putsService s) := by
  unfold putsService
  split
  · exact nextMeets_refused
  · exact nextMeets_next rfl

theorem keepsR7_putspService (s : State) : KeepsR7 s (putspService s) := by
  unfold putspService
  split
  · exact nextMeets_refused
  · split
    · exact nextMeets_refused
    · exact nextMeets_next rfl

/-- Through the vector table or as an abstract service, a trap call that completes or waits has linked. -/
theorem trapCall_r7 {v : BitVec 8} (h : trapCall v s = .next t) : t.reg .r7 = s.pc := by
  have vectored (entered : trapVectored v s = .next t) : t.reg .r7 = s.pc :=
    (linkedOnly_trapVectored entered).reg .r7
  unfold trapCall at h
  split at h
  next => exact vectored h
  next =>
    split at h
    next => exact keepsR7_awaitKey .getc (link s) t h
    next => cases h; rfl
    next => exact keepsR7_putsService (link s) t h
    next => exact keepsR7_awaitKey .inp (link s).emitFree t h
    next => exact keepsR7_putspService (link s) t h
    next => cases h; rfl
    next => exact vectored h

/-! ## What every call leaves (R115) -/

/-- R7 is the return address; in TRAP_MODE vectored the call does nothing else to the registers and the memory. -/
def Links (s t : State) : Prop := t.reg .r7 = s.pc ∧ (s.cfg.trapMode = .vectored → LinkedOnly s t)

theorem LinkedOnly.links (h : LinkedOnly s t) : Links s t := ⟨h.reg .r7, fun _ => h⟩

theorem links_trap {v : BitVec 8} (h : exec (.trap v) s = .next t) : Links s t :=
  ⟨trapCall_r7 h, fun vectored => linkedOnly_trapVectored ((trapCall_of_vectored vectored).symm.trans h)⟩

/-- RET in any state resumes at R7. -/
theorem exec_ret_pc (u : State) : ∃ x, exec .ret u = .next x ∧ x.pc = u.reg .r7 := ⟨_, rfl, rfl⟩

/-- Settles O20: each kind of call links, and RET goes to the link; without a service no stack is used. -/
theorem callsLeaveTheReturnAddressInR7 : Obligations.CallsLeaveTheReturnAddressInR7 := by
  intro i s t call performed
  have links : Links s t := by
    obtain ⟨off, rfl⟩ | ⟨base, rfl⟩ | ⟨v, rfl⟩ | ⟨v, named⟩ := call
    · cases performed
      exact (linkedOnly_link_setPc s _).links
    · cases (execJsrr_eq base s).symm.trans performed
      exact (linkedOnly_link_setPc s _).links
    · exact links_trap performed
    · exact links_trap ((exec_of_mem_namedTraps named s).symm.trans performed)
  obtain ⟨return_address, linked_only⟩ := links
  refine ⟨return_address, fun u same => ?_, fun vectored => ?_⟩
  · rw [← return_address, ← same]
    exact exec_ret_pc u
  · exact ⟨(linked_only vectored).reg .r6, (linked_only vectored).sameMemory⟩

end Sys2Proof.Machine
end

section
/-! SUPPORT. Proofs about spec/42_load.md: the operand forms (R134) and LD, LDI, LDR, LEA (R130 to R133). The loads end
with `loadFrom`, settled once at each kind of address; LDI makes one more read before it, for its pointer. -/

namespace Sys2Proof.Machine

variable {s t : State} {a v : Word} {dr : Reg} {off : BitVec 9}

/-! ## The addresses of the operand forms (R134, R113, R57) -/

/-- A base+offset address is the exact signed sum, taken modulo 2^16 (D4). -/
theorem baseOffset_eq_ofInt (s : State) (base : Reg) (off : BitVec 6) :
    baseOffset s base off = BitVec.ofInt 16 ((s.reg base).toInt + off.toInt) :=
  add_sext16 (s.reg base) off (by decide)

theorem toNat_trapEntry (v : BitVec 8) : (trapEntry v).toNat = v.toNat := BitVec.toNat_setWidth_of_le (by decide)

/-- The sum of the table's base x0100 and a vector does not wrap (D10). -/
theorem toNat_vectorEntry (v : BitVec 8) : (vectorEntry v).toNat = 256 + v.toNat := by
  have entry : (vectorEntry v).toNat = (256 + (trapEntry v).toNat) % 65536 := BitVec.toNat_add _ _
  rw [entry, toNat_trapEntry]
  omega

/-- Settles O8: sign extension keeps the signed value, zero extension the unsigned one. -/
theorem addressesOfTheOperandForms : Obligations.AddressesOfTheOperandForms := fun s =>
  ⟨fun off => pcRelative_eq_ofInt s off (by decide), fun off => pcRelative_eq_ofInt s off (by decide),
    baseOffset_eq_ofInt s, fun v => ⟨toNat_trapEntry v, toNat_vectorEntry v⟩⟩

/-! ## The common end of the loads -/

theorem loadFrom_of_read (read : memRead a s = .ok (v, t)) : loadFrom a dr s = .next (t.setResult dr v) :=
  withRead_of_ok read

theorem loadFrom_ordinary (h : s.ordinary a = true) :
    ∃ t, loadFrom a dr s = .next t ∧ ResultOnly dr (s.peek a) s t :=
  ⟨_, loadFrom_of_read (memRead_ordinary h), resultOnly_setResult s dr _⟩

/-- The frame is over the state the read leaves, where the read of a device register may have had its effect. -/
theorem loadFrom_readable (h : s.readable a = true) :
    ∃ v u t, memRead a s = .ok (v, u) ∧ loadFrom a dr s = .next t ∧ ResultOnly dr v u t := by
  obtain ⟨v, u, read⟩ := memRead_readable h
  exact ⟨v, u, _, read, loadFrom_of_read read, resultOnly_setResult u dr v⟩

theorem loadFrom_hole (h : s.readable a = false) : loadFrom a dr s = .refused (.deviceHole a) :=
  withRead_of_error (memRead_hole h)

/-! ## LD, LDR -/

/-- Settles O24: LD is the load from its PC-relative address. -/
theorem ldLoadsPcRelative : Obligations.LdLoadsPcRelative := fun _ _ _ =>
  ⟨loadFrom_ordinary, loadFrom_readable, loadFrom_hole⟩

/-- Settles O26: LDR is the load from its base+offset address. -/
theorem ldrLoadsBaseOffset : Obligations.LdrLoadsBaseOffset := fun _ _ _ _ =>
  ⟨loadFrom_ordinary, loadFrom_readable, loadFrom_hole⟩

/-! ## LDI -/

/-- The pointer first, then the data, in the state that the pointer read leaves. -/
theorem exec_ldi (dr : Reg) (off : BitVec 9) (s : State) :
    exec (.ldi dr off) s = withRead (pcRelative s off) s fun ea u => loadFrom ea dr u := rfl

theorem exec_ldi_of_read (read : memRead (pcRelative s off) s = .ok (a, t)) :
    exec (.ldi dr off) s = loadFrom a dr t :=
  (exec_ldi dr off s).trans (withRead_of_ok read)

/-- Settles O25: the pointer read leaves every address as readable as it was, so the data read is answered or refused
as the statement says of the first state. -/
theorem ldiLoadsThroughThePointer : Obligations.LdiLoadsThroughThePointer := by
  intro dr off s
  refine ⟨fun pointer data => ?_, fun pointer => ?_, fun hole => ?_⟩
  · rw [exec_ldi_of_read (memRead_ordinary pointer)]
    exact loadFrom_ordinary data
  · obtain ⟨ea, u, read⟩ := memRead_readable pointer
    refine ⟨ea, u, read, ?_⟩
    rw [exec_ldi_of_read read, ← memRead_readable_congr read ea]
    exact ⟨loadFrom_readable, loadFrom_hole⟩
  · exact (exec_ldi dr off s).trans (withRead_of_error (memRead_hole hole))

/-! ## LEA -/

/-- Settles O27: LEA's result is the address itself. -/
theorem leaLoadsTheAddress : Obligations.LeaLoadsTheAddress := by
  intro dr off s
  rw [← pcRelative_eq_ofInt s off (by decide)]
  exact ⟨_, rfl, resultOnly_setResult s dr _⟩

end Sys2Proof.Machine
end

section
/-! SUPPORT. Proofs about spec/43_store.md: ST, STI, STR (R140 to R142). The stores end with `storeTo`, settled once at
each kind of address; STI makes one read before it, for its pointer. -/

namespace Sys2Proof.Machine

variable {s t : State} {a v : Word} {sr : Reg} {off : BitVec 9}

/-! ## The common end of the stores (R143) -/

theorem storeTo_storedOnly (h : s.ordinary a = true) : ∃ t, storeTo a v s = .next t ∧ StoredOnly a v s t :=
  ⟨_, storeTo_ordinary h, storedOnly_poke s a v⟩

theorem storeTo_writable (h : s.writable a v = true) :
    ∃ t, storeTo a v s = .next t ∧ memWrite a v s = .ok t := by
  obtain ⟨t, written⟩ := memWrite_writable.1 h
  exact ⟨t, withWrite_of_ok written, written⟩

theorem storeTo_not_writable (h : s.writable a v = false) :
    ∃ r, storeTo a v s = .refused r ∧ memWrite a v s = .error r := by
  obtain ⟨r, refused⟩ := memWrite_refused h
  exact ⟨r, withWrite_of_error refused, refused⟩

/-! ## ST, STR -/

/-- Settles O29: ST is the store to its PC-relative address. -/
theorem stStoresPcRelative : Obligations.StStoresPcRelative := fun _ _ _ =>
  ⟨storeTo_storedOnly, storeTo_writable, storeTo_not_writable⟩

/-- Settles O31: STR is the store to its base+offset address. -/
theorem strStoresBaseOffset : Obligations.StrStoresBaseOffset := fun _ _ _ _ =>
  ⟨storeTo_storedOnly, storeTo_writable, storeTo_not_writable⟩

/-! ## STI -/

/-- The pointer first, then the store, in the state that the pointer read leaves. -/
theorem exec_sti (sr : Reg) (off : BitVec 9) (s : State) :
    exec (.sti sr off) s = withRead (pcRelative s off) s fun ea u => storeTo ea (u.reg sr) u := rfl

/-- The pointer read changes no register, so the value stored is the one before it. -/
theorem exec_sti_of_read (read : memRead (pcRelative s off) s = .ok (a, t)) :
    exec (.sti sr off) s = storeTo a (s.reg sr) t := by
  obtain ⟨regs, _⟩ := memRead_frame read
  have register : t.reg sr = s.reg sr := congrArg (Regs.get · sr) regs
  rw [exec_sti, withRead_of_ok read, register]

/-- Settles O30: an ordinary pointer is read without a side effect; after any answered read STI is the store to the
address read. -/
theorem stiStoresThroughThePointer : Obligations.StiStoresThroughThePointer := by
  intro sr off s
  refine ⟨fun pointer data => ?_, fun pointer => ?_, fun hole => ?_⟩
  · rw [exec_sti_of_read (memRead_ordinary pointer)]
    exact storeTo_storedOnly data
  · obtain ⟨ea, u, read⟩ := memRead_readable pointer
    refine ⟨ea, u, read, ?_⟩
    rw [exec_sti_of_read read]
    exact ⟨storeTo_writable, storeTo_not_writable⟩
  · exact (exec_sti sr off s).trans (withRead_of_error (memRead_hole hole))

end Sys2Proof.Machine
end

section
/-! SUPPORT. Proofs about spec/44_system.md: RTI in Supervisor mode (R150), TRAP (R151), the reserved opcode (R152). RTI's
second read is made with R6 and the PC already moved; no access looks at these, so RTI is two reads in a row and then
one state, whose frame is proved once. -/

namespace Sys2Proof.Machine

variable {s t u x : State} {a b v w : Word}

/-! ## The return from an interrupt (R150) -/

/-- No access looks at a register or at the PC, so both can be written after the read as well. -/
theorem withRead_setReg_setPc (r : Reg) (v pc : Word) (k : Word → State → Result) :
    withRead a ((s.setReg r v).setPc pc) k = withRead a s fun w t => k w ((t.setReg r v).setPc pc) := by
  unfold withRead memRead
  rw [State.setPc_cfg, State.setReg_cfg]
  split_ifs <;> rfl

theorem memRead_frame_twice (first : memRead a s = .ok (v, u)) (second : memRead b u = .ok (w, x)) :
    x.regs = s.regs ∧ x.pc = s.pc ∧ x.psr = s.psr ∧ x.savedSsp = s.savedSsp ∧ x.savedUsp = s.savedUsp ∧
      x.mem = s.mem ∧ x.schedule = s.schedule ∧ x.cfg = s.cfg ∧ x.waiting = s.waiting := by
  obtain ⟨regs, pc, psr, ssp, usp, mem, schedule, cfg, waiting⟩ := memRead_frame first
  simpa only [regs, pc, psr, ssp, usp, mem, schedule, cfg, waiting] using memRead_frame second

theorem leaveSupervisorStack_frame :
    SameRegsBut [.r6] s (leaveSupervisorStack s) ∧ (leaveSupervisorStack s).pc = s.pc ∧
      (leaveSupervisorStack s).psr = s.psr ∧ (leaveSupervisorStack s).savedUsp = s.savedUsp ∧
      (leaveSupervisorStack s).mem = s.mem ∧ (leaveSupervisorStack s).dev = s.dev ∧
      SameModel s (leaveSupervisorStack s) := by
  unfold leaveSupervisorStack
  cases s.psr.mode <;> simp +contextual [SameRegsBut, SameModel]

/-- The state RTI ends in: `x` is the one after its two reads, `pc` and `w` the words read, `sp` the R6 before them. -/
def restored (sp pc w : Word) (x : State) : State :=
  leaveSupervisorStack (((x.setPc pc).setReg .r6 (sp + 2#16)).setPsr (Psr.ofWord w))

theorem restored_frame (sp pc w : Word) (x : State) :
    SameRegsBut [.r6] x (restored sp pc w x) ∧ (restored sp pc w x).pc = pc ∧
      (restored sp pc w x).psr = Psr.ofWord w ∧ (restored sp pc w x).savedUsp = x.savedUsp ∧
      (restored sp pc w x).mem = x.mem ∧ (restored sp pc w x).dev = x.dev ∧ SameModel x (restored sp pc w x) := by
  obtain ⟨others, frame⟩ := leaveSupervisorStack_frame
    (s := ((x.setPc pc).setReg .r6 (sp + 2#16)).setPsr (Psr.ofWord w))
  refine ⟨fun r hr => (others r hr).trans ?_, frame⟩
  have ne : r ≠ .r6 := by simpa using hr
  simp [ne]

/-- Back in User mode the stack pointers are exchanged (D7). -/
theorem restored_of_user {sp pc : Word} (user : (Psr.ofWord w).mode = .user) :
    (restored sp pc w x).savedSsp = sp + 2#16 ∧ (restored sp pc w x).reg .r6 = x.savedUsp := by
  simp [restored, leaveSupervisorStack, user]

/-- Otherwise R6 is past the two words read. -/
theorem restored_of_supervisor {sp pc : Word} (supervisor : (Psr.ofWord w).mode = .supervisor) :
    (restored sp pc w x).savedSsp = x.savedSsp ∧ (restored sp pc w x).reg .r6 = sp + 2#16 := by
  simp [restored, leaveSupervisorStack, supervisor]

theorem toNat_pl_ofWord (w : Word) : (Psr.ofWord w).pl.toNat = w.toNat / 256 % 8 := by
  simp only [Psr.ofWord, BitVec.extractLsb'_toNat, Nat.shiftRight_eq_div_pow]

/-! ## RTI in Supervisor mode (R150) -/

theorem pop_of_hole {k : Word → State → Result} (hole : s.readable (s.reg .r6) = false) :
    pop s k = .refused (.deviceHole (s.reg .r6)) :=
  withRead_of_error (memRead_hole hole)

theorem pop_of_read {k : Word → State → Result} (read : memRead (s.reg .r6) s = .ok (v, t)) :
    pop s k = k v (t.setReg .r6 (s.reg .r6 + 1#16)) := by
  obtain ⟨regs, _⟩ := memRead_frame read
  have r6 : t.reg .r6 = s.reg .r6 := congrArg (Regs.get · .r6) regs
  rw [pop, withRead_of_ok read, r6]

/-- After the read of the PC, RTI reads the PSR at the next location and ends. -/
theorem returnFromInterrupt_of_read (read : memRead (s.reg .r6) s = .ok (a, u)) :
    returnFromInterrupt s = withRead (s.reg .r6 + 1#16) u fun w x => .next (restored (s.reg .r6) a w x) := by
  have two : s.reg .r6 + 2#16 = s.reg .r6 + 1#16 + 1#16 := by rw [BitVec.add_assoc]; rfl
  simp only [restored, two]
  exact (pop_of_read read).trans (withRead_setReg_setPc .r6 (s.reg .r6 + 1#16) a _)

theorem exec_rti_of_supervisor (supervisor : s.psr.mode = .supervisor) : exec .rti s = returnFromInterrupt s := by
  simp only [exec, execRti, supervisor]

/-- Settles O33: the two reads are answered or refused; after them the state is `restored`, whose stack pointers go by
the mode restored. -/
theorem rtiInSupervisorModeRestores : Obligations.RtiInSupervisorModeRestores := by
  intro s supervisor
  rw [exec_rti_of_supervisor supervisor]
  refine ⟨fun pc_readable psr_readable => ?_, fun hole => ?_, fun pc_readable hole => ?_⟩
  · obtain ⟨a, u, read_pc⟩ := memRead_readable pc_readable
    obtain ⟨w, x, read_psr⟩ := memRead_readable ((memRead_readable_congr read_pc _).trans psr_readable)
    obtain ⟨regs, _, _, ssp, usp, mem, schedule, cfg, waiting⟩ := memRead_frame_twice read_pc read_psr
    obtain ⟨others, pc, psr, usp', mem', dev, cfg', schedule', free, waiting'⟩ := restored_frame (s.reg .r6) a w x
    have completes := (returnFromInterrupt_of_read read_pc).trans (withRead_of_ok read_psr)
    have mode := congrArg Psr.mode psr
    have pl := (congrArg (·.pl.toNat) psr).trans (toNat_pl_ofWord w)
    have registers : SameRegsBut [.r6] s (restored (s.reg .r6) a w x) := fun r hr =>
      (others r hr).trans (congrArg (Regs.get · r) regs)
    have memory : SameMemoryBut [] s (restored (s.reg .r6) a w x) := fun b _ =>
      congrArg (Memory.read · b) (mem'.trans mem)
    refine ⟨a, u, w, x, _, read_pc, read_psr, completes, pc, mode, pl, congrArg Psr.n psr, congrArg Psr.z psr,
      congrArg Psr.p psr, fun user => usp ▸ restored_of_user (mode.symm.trans user),
      fun stays => ssp ▸ restored_of_supervisor (mode.symm.trans stays), usp'.trans usp, registers, memory, dev,
      cfg'.trans cfg, schedule'.trans schedule, waiting'.trans waiting, fun pc_ordinary psr_ordinary => ?_⟩
    cases read_pc.symm.trans (memRead_ordinary pc_ordinary)
    cases read_psr.symm.trans (memRead_ordinary psr_ordinary)
    exact ⟨rfl, rfl, dev, cfg', schedule', free, waiting'⟩
  · exact pop_of_hole hole
  · obtain ⟨a, u, read_pc⟩ := memRead_readable pc_readable
    rw [returnFromInterrupt_of_read read_pc]
    exact withRead_of_error (memRead_hole ((memRead_readable_congr read_pc _).trans hole))

/-! ## TRAP (R151) -/

/-- The Trap Vector Table lies below every device register. -/
theorem isDeviceRegister_trapEntry (v : BitVec 8) : isDeviceRegister (trapEntry v) = false := by
  have low : (trapEntry v).toNat < 256 := toNat_trapEntry v ▸ v.isLt
  have high : ∀ a ∈ [0xFE00#16, 0xFE02#16, 0xFE04#16, 0xFE06#16, 0xFFFE#16], 256 ≤ a.toNat := by simp
  exact isDeviceRegister_eq_false_iff.2 fun listed => (high _ listed).not_gt low

/-- So an entry that is no ordinary location is a hole. -/
theorem readable_trapEntry (s : State) (v : BitVec 8) : s.readable (trapEntry v) = s.ordinary (trapEntry v) := by
  simp [State.readable, State.ordinary, isDeviceRegister_trapEntry]

/-- Only the six vectors of Table A.2 are performed otherwise, and only in TRAP_MODE abstract (D19). -/
theorem trapCall_eq_trapVectored {v : BitVec 8}
    (h : s.cfg.trapMode = .vectored ∨ v.toNat < 0x20 ∨ 0x25 < v.toNat) : trapCall v s = trapVectored v s := by
  obtain vectored | unnamed := h
  · exact trapCall_of_vectored vectored
  · unfold trapCall
    split
    next => rfl
    next =>
      split
      case h_7 => rfl
      all_goals omega

theorem trapVectored_hole {v : BitVec 8} (hole : s.ordinary (trapEntry v) = false) :
    trapVectored v s = .refused (.deviceHole (trapEntry v)) :=
  withRead_of_error (memRead_hole (s := link s) ((readable_trapEntry s v).trans hole))

/-- Settles O39: outside the abstract services TRAP is the link and the jump through its table entry. -/
theorem trapEntersThroughTheVectorTable : Obligations.TrapEntersThroughTheVectorTable := by
  intro v s h
  have through_table : exec (.trap v) s = trapVectored v s := trapCall_eq_trapVectored h
  rw [through_table]
  exact ⟨fun entry => ⟨_, trapVectored_ordinary entry, rfl, jumpOnly_link_setPc s _⟩, trapVectored_hole⟩

/-! ## The reserved opcode (R152) -/

/-- The PC an exception saves is the one the statements name (R177, D9). -/
theorem exceptionPc_eq_savedByException (s : State) : exceptionPc s = s.savedByException := by
  unfold exceptionPc State.savedByException
  cases s.cfg.excPcSaved <;> rfl

theorem exec_reserved (low : BitVec 12) (s : State) :
    exec (.reserved low) s = initiate s.cfg.vecIllop s.savedByException none s := by
  rw [← exceptionPc_eq_savedByException]
  rfl

/-- Settles O35: the low bits are not looked at, and the initiation completes in either mode. -/
theorem reservedOpcodeTakesTheIllegalOpcode : Obligations.ReservedOpcodeTakesTheIllegalOpcode := by
  intro low s enters
  rw [exec_reserved]
  exact initiate_ordinary s.cfg.vecIllop s.savedByException none enters

end Sys2Proof.Machine
end

section
/-! SUPPORT. Proofs about spec/45_trap_services.md: the services of TRAP_MODE = abstract. What a service that returns leaves
is said once, for the three that show a text (OUT, PUTS, PUTSP) and for the two that wait for a character (GETC, IN). -/

namespace Sys2Proof.Machine

variable {s t u : State} {a : Word} {n : Nat} {ws : List Word}

/-! ## The service of each name (R160) -/

section
variable (abstr : s.cfg.trapMode = .abstract)
include abstr

theorem exec_getc_of_abstract : exec .getc s = awaitKey .getc (link s) := by
  simp only [exec, execGetc, trapCall, abstr]
  rfl

theorem exec_out_of_abstract : exec .out s = outService (link s) := by
  simp only [exec, execOut, trapCall, abstr]
  rfl

theorem exec_puts_of_abstract : exec .puts s = putsService (link s) := by
  simp only [exec, execPuts, trapCall, abstr]
  rfl

theorem exec_inp_of_abstract : exec .inp s = awaitKey .inp (link s).emitFree := by
  simp only [exec, execInp, trapCall, abstr]
  rfl

theorem exec_putsp_of_abstract : exec .putsp s = putspService (link s) := by
  simp only [exec, execPutsp, trapCall, abstr]
  rfl

theorem exec_halt_of_abstract : exec .halt s = haltService (link s) := by
  simp only [exec, execHalt, trapCall, abstr]
  rfl

end

/-! ## The bytes of a word -/

theorem lowByte_eq_ofNat (w : Word) : w.extractLsb' 0 8 = BitVec.ofNat 8 w.toNat := rfl

theorem highByte_eq_ofNat (w : Word) : w.extractLsb' 8 8 = BitVec.ofNat 8 (w.toNat / 256) :=
  congrArg (BitVec.ofNat 8) (Nat.shiftRight_eq_div_pow w.toNat 8)

theorem lowByte_eq_zero_iff (w : Word) : w.extractLsb' 0 8 = 0#8 ↔ w.toNat % 256 = 0 := by
  rw [lowByte_eq_ofNat, ← BitVec.toNat_inj]
  simp

theorem highByte_eq_zero_iff (w : Word) : w.extractLsb' 8 8 = 0#8 ↔ w.toNat / 256 = 0 := by
  have small : w.toNat / 256 < 256 := Nat.div_lt_of_lt_mul w.isLt
  rw [highByte_eq_ofNat, ← BitVec.toNat_inj, BitVec.toNat_ofNat, Nat.mod_eq_of_lt small]
  rfl

/-! ## The services that show a text: OUT, PUTS, PUTSP -/

/-- A text is shown and the service returns. -/
theorem serviceReturn_emit (s : State) (text : List Byte) :
    ∃ t, serviceReturn (afterService ((link s).emit text)) = .next t ∧ Returned s t ∧
      t.dev.display = s.dev.display ++ text ∧ t.dev.keyboard = s.dev.keyboard :=
  ⟨_, rfl, ⟨rfl, rfl, rfl, rfl, afterService_clockEnabled⟩, rfl, rfl⟩

/-- Settles O42: OUT shows the low byte of R0, which the link leaves alone, and returns. -/
theorem outShowsTheCharacter : Obligations.OutShowsTheCharacter := by
  intro s abstr
  rw [exec_out_of_abstract abstr]
  exact serviceReturn_emit s _

/-! ### The string R0 points to (R163, U11) -/

theorem stringWords_of_not_ordinary (hole : s.ordinary a = false) : stringWords s n a = none := by
  cases n <;> simp [stringWords, hole]

theorem stringWords_at_end (ordinary : s.ordinary a = true) (ends : s.peek a = 0#16) :
    stringWords s (n + 1) a = some [] := by
  simp [stringWords, ordinary, ends]

theorem stringWords_before_end (ordinary : s.ordinary a = true) (goes_on : s.peek a ≠ 0#16) :
    stringWords s (n + 1) a = (stringWords s n (a + 1#16)).map (s.peek a :: ·) := by
  simp [stringWords, ordinary, goes_on]

/-- The location at `a` is one of those counted, and with it gone the rest are counted from the next address, unless
`a` is the last one. -/
theorem exists_rest_of_toNat_add (count : a.toNat + n = 65536) :
    ∃ m, n = m + 1 ∧ (a = 0xFFFF#16 → m = 0) ∧ (a ≠ 0xFFFF#16 → (a + 1#16).toNat + m = 65536) := by
  have below : a.toNat < 65536 := a.isLt
  obtain ⟨m, rfl⟩ : ∃ m, n = m + 1 := Nat.exists_eq_add_one.2 (by omega)
  exact ⟨m, rfl, by bv_omega, by bv_omega⟩

theorem stringWords_of_stringAt (string : StringAt s a ws) (count : a.toNat + n = 65536) :
    stringWords s n a = some ws := by
  induction ws generalizing a n with
  | nil =>
    obtain ⟨m, rfl, _⟩ := exists_rest_of_toNat_add count
    obtain ⟨ordinary, ends⟩ := string
    exact stringWords_at_end ordinary ends
  | cons w ws ih =>
    obtain ⟨m, rfl, _, next⟩ := exists_rest_of_toNat_add count
    obtain ⟨ordinary, rfl, goes_on, not_last, string⟩ := string
    rw [stringWords_before_end ordinary goes_on, ih string (next not_last)]
    rfl

theorem stringWords_of_noStringAt {k : Nat} (endless : NoStringAt s k a) (count : a.toNat + n = 65536) :
    stringWords s n a = none := by
  induction k generalizing a n with
  | zero => exact stringWords_of_not_ordinary endless
  | succ k ih =>
    obtain ⟨m, rfl, last, next⟩ := exists_rest_of_toNat_add count
    obtain ⟨ordinary, goes_on, endless⟩ := endless
    have rest : stringWords s m (a + 1#16) = none := by
      by_cases is_last : a = 0xFFFF#16
      · rw [last is_last, stringWords]
      · exact ih (endless.resolve_left is_last) (next is_last)
    rw [stringWords_before_end ordinary goes_on, rest]
    rfl

/-- The link touches no location. -/
theorem stringWords_link (s : State) (n : Nat) (a : Word) : stringWords (link s) n a = stringWords s n a := by
  induction n generalizing a with
  | zero => rfl
  | succ n ih =>
    have ordinary : (link s).ordinary a = s.ordinary a := rfl
    have peek : (link s).peek a = s.peek a := rfl
    rw [stringWords, stringWords, ih, ordinary, peek]

theorem stringAtR0_link (s : State) : stringAtR0 (link s) = stringAtR0 s := stringWords_link s _ _

theorem stringAtR0_of_stringAt (string : StringAt s (s.reg .r0) ws) : stringAtR0 s = some ws :=
  stringWords_of_stringAt string (Nat.add_sub_cancel' (s.reg .r0).isLt.le)

theorem stringAtR0_of_noStringAt {k : Nat} (endless : NoStringAt s k (s.reg .r0)) : stringAtR0 s = none :=
  stringWords_of_noStringAt endless (Nat.add_sub_cancel' (s.reg .r0).isLt.le)

/-! ### PUTS (R163) -/

theorem putsService_of_string (string : stringAtR0 u = some ws) :
    putsService u = serviceReturn (afterService (u.emit (ws.map (·.extractLsb' 0 8)))) := by
  simp only [putsService, string]

theorem putsService_of_no_string (endless : stringAtR0 u = none) : putsService u = .refused .unterminatedString := by
  simp only [putsService, endless]

/-- Settles O43: the model's search from R0 finds the string there is, and nothing where there is none. -/
theorem putsShowsTheString : Obligations.PutsShowsTheString := by
  intro s abstr
  rw [exec_puts_of_abstract abstr]
  refine ⟨fun ws string => ?_, fun k endless => ?_⟩
  · rw [putsService_of_string ((stringAtR0_link s).trans (stringAtR0_of_stringAt string))]
    obtain ⟨t, completes, returned, display, _⟩ := serviceReturn_emit s (ws.map (·.extractLsb' 0 8))
    exact ⟨t, completes, returned, display⟩
  · exact putsService_of_no_string ((stringAtR0_link s).trans (stringAtR0_of_noStringAt endless))

/-! ### PUTSP (R165) -/

theorem putspService_of_no_string (endless : stringAtR0 u = none) : putspService u = .refused .unterminatedString := by
  simp only [putspService, endless]

theorem putspService_of_gap (string : stringAtR0 u = some ws) (gap : ∃ w ∈ ws, w.toNat % 256 = 0) :
    putspService u = .refused .packedStringGap := by
  have found : ws.any (fun w => w.extractLsb' 0 8 == 0#8) = true := by
    simpa only [List.any_eq_true, beq_iff_eq, lowByte_eq_zero_iff] using gap
  simp only [putspService, string, found, if_true]

theorem putspService_of_packed_string (string : stringAtR0 u = some ws) (no_gap : ∀ w ∈ ws, w.toNat % 256 ≠ 0) :
    putspService u = serviceReturn (afterService (u.emit (ws.flatMap packedChars))) := by
  have none_found : ¬ws.any (fun w => w.extractLsb' 0 8 == 0#8) = true := by
    simpa only [List.any_eq_true, beq_iff_eq, lowByte_eq_zero_iff, not_exists, not_and] using no_gap
  simp only [putspService, string, if_neg none_found]

/-- The low byte, then the high byte unless it is x00. -/
theorem packedChars_eq (w : Word) : packedChars w =
    BitVec.ofNat 8 w.toNat :: if w.toNat / 256 = 0 then [] else [BitVec.ofNat 8 (w.toNat / 256)] := by
  unfold packedChars
  by_cases high : w.toNat / 256 = 0
  · rw [if_pos ((highByte_eq_zero_iff w).2 high), if_pos high, lowByte_eq_ofNat]
  · rw [if_neg (mt (highByte_eq_zero_iff w).1 high), if_neg high, lowByte_eq_ofNat, highByte_eq_ofNat]

/-- Settles O45: the string is found as by PUTS; it is shown unless one of its locations is a gap. -/
theorem putspShowsThePackedString : Obligations.PutspShowsThePackedString := by
  intro s abstr
  rw [exec_putsp_of_abstract abstr]
  refine ⟨fun ws string no_gap => ?_, fun ws string gap => ?_, fun k endless => ?_⟩
  · rw [putspService_of_packed_string ((stringAtR0_link s).trans (stringAtR0_of_stringAt string)) no_gap]
    obtain ⟨t, completes, returned, display, _⟩ := serviceReturn_emit s (ws.flatMap packedChars)
    exact ⟨t, completes, returned, display.trans (congrArg (s.dev.display ++ ws.flatMap ·) (funext packedChars_eq))⟩
  · exact putspService_of_gap ((stringAtR0_link s).trans (stringAtR0_of_stringAt string)) gap
  · exact putspService_of_no_string ((stringAtR0_link s).trans (stringAtR0_of_noStringAt endless))

/-! ## The services that wait for a character: GETC, IN (R161, R164; log 21) -/

theorem awaitKey_of_ready {k : KeyService} (ready : s.dev.kbsrReady = true) : awaitKey k s = deliverTo k s :=
  if_pos ready

theorem awaitKey_of_not_ready {k : KeyService} (silent : s.dev.kbsrReady = false) :
    awaitKey k s = .next (s.setWaiting (some k)) := by
  simp [awaitKey, silent]

/-- What the service shows with the character: GETC nothing, IN the echo and a text the spec leaves open (U12). -/
def State.echoText (s : State) : KeyService → Byte → List Byte
  | .getc, _ => []
  | .inp, c => c :: Config.freeText s.freeCount

theorem echo_display (s : State) (k : KeyService) (c : Byte) :
    (s.echo k c).dev.display = s.dev.display ++ s.echoText k c := by
  cases k with
  | getc => simp [State.echo, State.echoText]
  | inp => simp [State.echo, State.echoText, State.emitFree, State.emit]

/-- The character is consumed, the service shows its text and returns. -/
theorem deliverTo_returnsCharacter (k : KeyService) (s : State) : ∃ t, deliverTo k s = .next t ∧
    ReturnsCharacter (s.echoText k s.dev.kbdr) s t ∧ t.clockEnabled = s.clockEnabled := by
  have display := echo_display (consumeKey s) k s.dev.kbdr
  have clock : (afterService ((consumeKey s).echo k s.dev.kbdr)).clockEnabled = s.clockEnabled :=
    afterService_clockEnabled.trans (echo_clockEnabled k _)
  have character : (zext16 s.dev.kbdr).toNat = s.dev.kbdr.toNat := toNat_trapEntry s.dev.kbdr
  cases k <;> exact ⟨_, rfl, ⟨rfl, rfl, character, rfl, rfl, display, rfl, rfl⟩, clock⟩

/-- A call that had its character at once has returned to its caller: `u` is the state after the link. -/
theorem ReturnsCharacter.returned {text : List Byte} (returns : ReturnsCharacter text u t)
    (linked : u.reg .r7 = s.pc) (mode : u.psr.mode = s.psr.mode) (cfg : u.cfg = s.cfg)
    (clock : t.clockEnabled = s.clockEnabled) : Returned s t := by
  obtain ⟨pc, r7, _, _, mode', _, _, cfg'⟩ := returns
  exact ⟨r7.trans linked, pc.trans linked, mode'.trans mode, cfg'.trans cfg, clock⟩

/-- A call of GETC or IN after its link and its prompt, of which `n` free values were drawn. -/
def State.prompted (s : State) (prompt : List Byte) (n : Nat) : State := ((link s).emit prompt).drawn n

theorem waitsFor_prompted (s : State) (k : KeyService) (prompt : List Byte) (n : Nat) :
    WaitsFor k prompt s ((s.prompted prompt n).setWaiting (some k)) := by
  have others : SameRegsBut [.r7] s ((s.prompted prompt n).setWaiting (some k)) := fun r hr => by
    have ne : r ≠ .r7 := by simpa using hr
    exact (reg_link s r).trans (if_neg ne)
  exact ⟨rfl, rfl, others, rfl, rfl, ⟨rfl, rfl⟩, fun _ _ => rfl, rfl, rfl, rfl⟩

/-- GETC shows no prompt. -/
theorem link_eq_prompted (s : State) : link s = s.prompted [] 0 := by
  simp [State.prompted, State.emit, State.setDev, State.drawn]

/-- The call with its character there completes. -/
theorem awaitKey_prompted_of_ready (k : KeyService) (prompt : List Byte) (n : Nat) (ready : s.dev.kbsrReady = true) :
    ∃ t, awaitKey k (s.prompted prompt n) = .next t ∧ Returned s t ∧ (t.reg .r0).toNat = s.dev.kbdr.toNat ∧
      t.dev.display = s.dev.display ++ prompt ++ (s.prompted prompt n).echoText k s.dev.kbdr ∧
      t.dev.keyboard = s.dev.keyboard ∧ t.waiting = none := by
  obtain ⟨t, delivers, returns, clock⟩ := deliverTo_returnsCharacter k (s.prompted prompt n)
  have returned : Returned s t := returns.returned rfl rfl rfl clock
  obtain ⟨_, _, character, waiting, _, display, keyboard, _⟩ := returns
  have has_key : (s.prompted prompt n).dev.kbsrReady = true := ready
  exact ⟨t, (awaitKey_of_ready has_key).trans delivers, returned, character, display, keyboard, waiting⟩

/-- The call without its character waits. -/
theorem awaitKey_prompted_of_not_ready (k : KeyService) (prompt : List Byte) (n : Nat)
    (silent : s.dev.kbsrReady = false) :
    ∃ t, awaitKey k (s.prompted prompt n) = .next t ∧ WaitsFor k prompt s t :=
  ⟨_, awaitKey_of_not_ready silent, waitsFor_prompted s k prompt n⟩

/-! ### The resumed rounds -/

theorem step_of_waiting {k : KeyService} (running : s.clockEnabled = true) (waits : s.waiting = some k) :
    step s = awaitKey k s.afterTurn := by
  simp only [step, running, waits, if_true]

theorem step_of_waiting_ready {k : KeyService} (running : s.clockEnabled = true) (waits : s.waiting = some k)
    (ready : s.afterTurn.dev.kbsrReady = true) :
    ∃ t, step s = .next t ∧ ReturnsCharacter (s.afterTurn.echoText k s.afterTurn.dev.kbdr) s.afterTurn t := by
  obtain ⟨t, delivers, returns, _⟩ := deliverTo_returnsCharacter k s.afterTurn
  rw [step_of_waiting running waits, awaitKey_of_ready ready]
  exact ⟨t, delivers, returns⟩

theorem step_of_waiting_not_ready {k : KeyService} (running : s.clockEnabled = true) (waits : s.waiting = some k)
    (silent : s.afterTurn.dev.kbsrReady = false) : step s = .next s.afterTurn := by
  have still_waits : s.afterTurn.setWaiting (some k) = s.afterTurn := by
    rw [← waits]
    rfl
  rw [step_of_waiting running waits, awaitKey_of_not_ready silent, still_waits]

/-- Settles O41: GETC is the call without a prompt, at the trap and in the resumed rounds. -/
theorem getcReturnsTheCharacter : Obligations.GetcReturnsTheCharacter := by
  refine ⟨fun s abstr => ?_, fun s running waits => ?_⟩
  · rw [exec_getc_of_abstract abstr, link_eq_prompted]
    refine ⟨fun ready => ?_, awaitKey_prompted_of_not_ready .getc [] 0⟩
    simpa only [State.echoText, List.append_nil] using awaitKey_prompted_of_ready .getc [] 0 ready
  · exact ⟨step_of_waiting_ready running waits, step_of_waiting_not_ready running waits⟩

/-- Settles O44: IN is the call with a free prompt; its echo is followed by a free text. -/
theorem inEchoesTheCharacter : Obligations.InEchoesTheCharacter := by
  refine ⟨fun s abstr => ⟨Config.freeText s.freeCount, ?_⟩, fun s running waits => ?_⟩
  · rw [exec_inp_of_abstract abstr]
    refine ⟨fun ready => ?_, awaitKey_prompted_of_not_ready .inp _ 1⟩
    obtain ⟨t, completes, returned, character, display, keyboard, waiting⟩ :=
      awaitKey_prompted_of_ready .inp (Config.freeText s.freeCount) 1 ready
    rw [State.echoText, List.append_cons] at display
    exact ⟨t, _, completes, returned, character, display, keyboard, waiting⟩
  · refine ⟨fun ready => ?_, step_of_waiting_not_ready running waits⟩
    obtain ⟨t, resumed, returns⟩ := step_of_waiting_ready running waits ready
    exact ⟨t, _, resumed, returns⟩

/-! ## HALT (R166) -/

theorem mask_7FFF_bit15 (w : Word) : (w &&& 0x7FFF#16).getLsbD 15 = false := by simp

/-- The message is shown, MCR[15] is masked off, and the link, the mode and the parameters stay. -/
theorem haltService_completes (s : State) : ∃ t, haltService s = .next t ∧ t.clockEnabled = false ∧
    t.reg .r7 = s.reg .r7 ∧ t.dev.display = s.dev.display ++ Config.freeText s.freeCount ∧
    t.psr.mode = s.psr.mode ∧ t.cfg = s.cfg :=
  ⟨_, rfl, mask_7FFF_bit15 _, rfl, rfl, rfl, rfl⟩

/-- Settles O46: HALT turns the clock off, and then there is no round. -/
theorem haltStopsTheProcessor : Obligations.HaltStopsTheProcessor := by
  intro s abstr
  rw [exec_halt_of_abstract abstr]
  obtain ⟨t, completes, stopped, r7, display, mode, cfg⟩ := haltService_completes (link s)
  exact ⟨t, _, completes, r7, display, stopped, step_of_clock_off stopped, mode, cfg⟩

end Sys2Proof.Machine
end

section
/-! SUPPORT. Proofs about spec/60_exceptions.md, the privilege mode (R170 to R172): an instruction other than RTI and
the reserved opcode commutes with giving the state another mode. That it keeps the mode follows: give the state its
own. -/

namespace Sys2Proof.Machine

variable {s t u : State} {m : Mode} {a v w : Word}

/-! ## The mode as a bit (R170) -/

theorem Psr.getLsbD_toWord_15 (q : Psr) : q.toWord.getLsbD 15 = decide (q.mode = .user) := by
  rw [← mode_user_ofWord, Psr.ofWord_toWord]

theorem Mode.eq_user_iff (q : Mode) : q = .user ↔ q ≠ .supervisor := by
  cases q <;> decide

theorem exec_rti_eq_raise (user : s.psr.mode = .user) : exec .rti s = raise s.cfg.vecPriv s := by
  simp only [exec, execRti, user]

/-- Settles O11: bit 15 of the word is the test for User mode, and RTI branches on the mode. -/
theorem privilegeModeIsPsrBit15 : Obligations.PrivilegeModeIsPsrBit15 := by
  have supervisor (q : Psr) : q.toWord.getLsbD 15 = false ↔ q.mode = .supervisor := by
    rw [Psr.getLsbD_toWord_15, decide_eq_false_iff_not, Mode.eq_user_iff, not_ne_iff]
  have user (q : Psr) : q.toWord.getLsbD 15 = true ↔ q.mode = .user := by
    rw [Psr.getLsbD_toWord_15, decide_eq_true_iff]
  exact ⟨fun q => ⟨supervisor q, user q⟩, fun _ => rfl, fun s =>
    ⟨fun clear => exec_rti_of_supervisor ((supervisor s.psr).1 clear),
      fun set => exec_rti_eq_raise ((user s.psr).1 set)⟩⟩

/-! ## Operations that commute with a change of the mode (R172) -/

/-- The answer with the mode of its next state given. -/
def inMode (m : Mode) : Result → Result
  | .next t => .next (t.withMode m)
  | .fault f => .fault f
  | .refused r => .refused r

/-- A state in its own mode is itself. -/
theorem State.withMode_self (s : State) : s.withMode s.psr.mode = s := rfl

theorem State.withMode_cfg (s : State) (m : Mode) : (s.withMode m).cfg = s.cfg := rfl

theorem memRead_withMode (a : Word) (s : State) (m : Mode) :
    memRead a (s.withMode m) = (memRead a s).map fun p => (p.1, p.2.withMode m) := by
  unfold memRead
  rw [State.withMode_cfg]
  split_ifs <;> rfl

theorem displayWrite_withMode (b : Byte) (s : State) (m : Mode) :
    displayWrite b (s.withMode m) = (displayWrite b s).map (State.withMode m) := by
  have ready : (s.withMode m).dev.dsrReady = s.dev.dsrReady := rfl
  unfold displayWrite
  rw [ready]
  split <;> rfl

theorem keyboardStatusWrite_withMode (v : Word) (s : State) (m : Mode) :
    keyboardStatusWrite v (s.withMode m) = (keyboardStatusWrite v s).map (State.withMode m) := by
  unfold keyboardStatusWrite
  rw [State.withMode_cfg]
  split_ifs <;> rfl

theorem memWrite_withMode (a v : Word) (s : State) (m : Mode) :
    memWrite a v (s.withMode m) = (memWrite a v s).map (State.withMode m) := by
  unfold memWrite
  rw [displayWrite_withMode, keyboardStatusWrite_withMode, State.withMode_cfg]
  split_ifs <;> rfl

theorem withRead_withMode {k : Word → State → Result} (hk : ∀ v t, k v (t.withMode m) = inMode m (k v t)) :
    withRead a (s.withMode m) k = inMode m (withRead a s k) := by
  unfold withRead
  rw [memRead_withMode]
  cases memRead a s with
  | ok p => exact hk p.1 p.2
  | error r => rfl

theorem withWrite_withMode {k : State → Result} (hk : ∀ t, k (t.withMode m) = inMode m (k t)) :
    withWrite a v (s.withMode m) k = inMode m (withWrite a v s k) := by
  unfold withWrite
  rw [memWrite_withMode]
  cases memWrite a v s with
  | ok t => exact hk t
  | error r => rfl

theorem loadFrom_withMode (ea : Word) (dr : Reg) (s : State) :
    loadFrom ea dr (s.withMode m) = inMode m (loadFrom ea dr s) :=
  withRead_withMode fun _ _ => rfl

theorem storeTo_withMode (ea v : Word) (s : State) : storeTo ea v (s.withMode m) = inMode m (storeTo ea v s) :=
  withWrite_withMode fun _ => rfl

theorem trapVectored_withMode (v : BitVec 8) (s : State) :
    trapVectored v (s.withMode m) = inMode m (trapVectored v s) :=
  withRead_withMode (s := link s) fun _ _ => rfl

/-! ### The services of TRAP_MODE = abstract (R160) -/

theorem awaitKey_withMode (k : KeyService) (s : State) : awaitKey k (s.withMode m) = inMode m (awaitKey k s) := by
  have ready : (s.withMode m).dev.kbsrReady = s.dev.kbsrReady := rfl
  unfold awaitKey
  rw [ready]
  split
  · cases k <;> rfl
  · rfl

/-- The search for a string looks at the memory and at DEVICE_RANGE only. -/
theorem stringWords_congr (mem : t.mem = s.mem) (cfg : t.cfg = s.cfg) (n : Nat) (a : Word) :
    stringWords t n a = stringWords s n a := by
  induction n generalizing a with
  | zero => rfl
  | succ n ih =>
    have ordinary : t.ordinary a = s.ordinary a := by simp only [State.ordinary, cfg]
    have peek : t.peek a = s.peek a := congrArg (Memory.read · a) mem
    rw [stringWords, stringWords, ih, ordinary, peek]

theorem stringAtR0_withMode (s : State) (m : Mode) : stringAtR0 (s.withMode m) = stringAtR0 s :=
  stringWords_congr (s := s) (t := s.withMode m) rfl rfl _ _

theorem putsService_withMode (s : State) : putsService (s.withMode m) = inMode m (putsService s) := by
  unfold putsService
  rw [stringAtR0_withMode]
  split <;> rfl

theorem putspService_withMode (s : State) : putspService (s.withMode m) = inMode m (putspService s) := by
  unfold putspService
  rw [stringAtR0_withMode]
  split
  · rfl
  · split <;> rfl

theorem trapCall_withMode (v : BitVec 8) (s : State) : trapCall v (s.withMode m) = inMode m (trapCall v s) := by
  unfold trapCall
  rw [State.withMode_cfg]
  split
  next => exact trapVectored_withMode v s
  next =>
    split
    next => exact awaitKey_withMode .getc (link s)
    next => rfl
    next => exact putsService_withMode (link s)
    next => exact awaitKey_withMode .inp (link s).emitFree
    next => exact putspService_withMode (link s)
    next => rfl
    next => exact trapVectored_withMode v s

/-! ### Instructions -/

theorem execBr_withMode (n z p : Bool) (off : BitVec 9) (s : State) :
    execBr n z p off (s.withMode m) = inMode m (execBr n z p off s) := by
  have tests : (s.withMode m).psr.tests n z p = s.psr.tests n z p := rfl
  unfold execBr
  rw [tests]
  split <;> rfl

theorem execJsrr_withMode (base : Reg) (s : State) : execJsrr base (s.withMode m) = inMode m (execJsrr base s) := by
  rw [execJsrr_eq, execJsrr_eq]
  rfl

/-- Every instruction but RTI and the reserved opcode does in one mode what it does in the other. -/
theorem exec_withMode {i : Instr} (not_rti : i ≠ .rti) (not_reserved : ∀ low, i ≠ .reserved low) (m : Mode)
    (s : State) : exec i (s.withMode m) = inMode m (exec i s) := by
  cases i with
  | rti => exact absurd rfl not_rti
  | reserved low => exact absurd rfl (not_reserved low)
  | addReg | addImm | andReg | andImm | not | lea | jmp | ret | jsr => rfl
  | br n z p off => exact execBr_withMode n z p off s
  | jsrr base => exact execJsrr_withMode base s
  | ld | ldr => exact loadFrom_withMode _ _ s
  | ldi dr => exact withRead_withMode fun ea t => loadFrom_withMode ea dr t
  | st | str => exact storeTo_withMode _ _ s
  | sti sr =>
    exact withRead_withMode (k := fun ea t => storeTo ea (t.reg sr) t) fun ea t => storeTo_withMode ea (t.reg sr) t
  | trap | getc | out | puts | inp | putsp | halt => exact trapCall_withMode _ s

/-- Settles O53: the answer in the other mode is the answer with the mode changed in its next state. -/
theorem privilegeModeMattersOnlyToRti : Obligations.PrivilegeModeMattersOnlyToRti := by
  intro i m s not_rti not_reserved
  rw [exec_withMode not_rti not_reserved]
  exact ⟨fun t completes => congrArg (inMode m) completes, fun r refused => congrArg (inMode m) refused⟩

/-! ## What changes the mode (R171) -/

/-- A next state that the mode given does not change has that mode. -/
theorem mode_of_next_eq_inMode (same : .next t = inMode m (.next t)) : t.psr.mode = m :=
  congrArg (·.psr.mode) (Host.Outcome.next.inj same : t = t.withMode m)

theorem exec_mode {i : Instr} (performed : exec i s = .next t) (not_rti : i ≠ .rti)
    (not_reserved : ∀ low, i ≠ .reserved low) : t.psr.mode = s.psr.mode := by
  have same := exec_withMode not_rti not_reserved s.psr.mode s
  rw [State.withMode_self, performed] at same
  exact mode_of_next_eq_inMode same

theorem awaitKey_mode {k : KeyService} (performed : awaitKey k s = .next t) : t.psr.mode = s.psr.mode := by
  have same := awaitKey_withMode (m := s.psr.mode) k s
  rw [State.withMode_self, performed] at same
  exact mode_of_next_eq_inMode same

theorem initiate_mode {vec : BitVec 8} {saved : Word} {prio : Option (BitVec 3)}
    (entered : initiate vec saved prio s = .next t) : t.psr.mode = .supervisor :=
  congrArg Psr.mode (initiate_psr entered)

/-- The mode RTI restores is bit 15 of the second word it reads. -/
theorem returnFromInterrupt_mode (returned : returnFromInterrupt s = .next t) :
    ∃ a u w x, memRead (s.reg .r6) s = .ok (a, u) ∧ memRead (s.reg .r6 + 1#16) u = .ok (w, x) ∧
      t.psr = Psr.ofWord w := by
  obtain ⟨a, u, read_pc, _⟩ := pop_next returned
  obtain ⟨w, x, read_psr, ⟨⟩⟩ := withRead_next ((returnFromInterrupt_of_read read_pc).symm.trans returned)
  obtain ⟨_, _, psr, _⟩ := restored_frame (s.reg .r6) a w x
  exact ⟨a, u, w, x, read_pc, read_psr, psr⟩

theorem fetch_psr {i : Instr} (fetched : fetch s = .ok (i, u)) : u.psr = s.psr := by
  obtain ⟨_, _, read, _, rfl⟩ := fetch_ok fetched
  exact (memRead_psr read :)

theorem execRti_changes_mode (performed : exec .rti s = .next t) (changed : t.psr.mode ≠ s.psr.mode) :
    (s.psr.mode = .user ∧ raise s.cfg.vecPriv s = .next t) ∨
    (s.psr.mode = .supervisor ∧ ∃ a u w x, memRead (s.reg .r6) s = .ok (a, u) ∧
      memRead (s.reg .r6 + 1#16) u = .ok (w, x) ∧ w.getLsbD 15 = true) := by
  cases mode : s.psr.mode with
  | user => exact .inl ⟨rfl, (exec_rti_eq_raise mode).symm.trans performed⟩
  | supervisor =>
    obtain ⟨a, u, w, x, read_pc, read_psr, psr⟩ :=
      returnFromInterrupt_mode ((exec_rti_of_supervisor mode).symm.trans performed)
    have user : (Psr.ofWord w).mode = .user := by
      rw [← psr]
      exact (Mode.eq_user_iff _).2 (mode ▸ changed)
    exact .inr ⟨rfl, a, u, w, x, read_pc, read_psr, by rw [← mode_user_ofWord, user]; rfl⟩

/-- The instruction that changes the mode is RTI or the reserved opcode. -/
theorem rti_or_reserved_of_mode_changed {i : Instr} (performed : exec i s = .next t)
    (changed : t.psr.mode ≠ s.psr.mode) : i = .rti ∨ ∃ low, i = .reserved low := by
  by_contra! others
  obtain ⟨not_rti, not_reserved⟩ := others
  exact changed (exec_mode performed not_rti not_reserved)

theorem exec_changes_mode {i : Instr} (performed : exec i s = .next t) (changed : t.psr.mode ≠ s.psr.mode) :
    (s.psr.mode = .user ∧ i = .rti ∧ raise s.cfg.vecPriv s = .next t) ∨
    (s.psr.mode = .user ∧ (∃ low, i = .reserved low) ∧ raise s.cfg.vecIllop s = .next t) ∨
    (s.psr.mode = .supervisor ∧ i = .rti ∧ ∃ a u w x, memRead (s.reg .r6) s = .ok (a, u) ∧
      memRead (s.reg .r6 + 1#16) u = .ok (w, x) ∧ w.getLsbD 15 = true) := by
  obtain rfl | ⟨low, rfl⟩ := rti_or_reserved_of_mode_changed performed changed
  · obtain ⟨user, raised⟩ | ⟨supervisor, reads⟩ := execRti_changes_mode performed changed
    · exact .inl ⟨user, rfl, raised⟩
    · exact .inr (.inr ⟨supervisor, rfl, reads⟩)
  · have entered : t.psr.mode = .supervisor := initiate_mode performed
    have user := (Mode.eq_user_iff _).2 (entered ▸ changed).symm
    exact .inr (.inl ⟨user, ⟨low, rfl⟩, performed⟩)

/-- A round changes the mode by the entry of an interrupt or by its instruction: the environment's turn, the fetch and a
call that waits leave the PSR's mode alone. -/
theorem step_changes_mode (round : step s = .next t) (changed : t.psr.mode ≠ s.psr.mode) :
    (∃ src, s.afterTurn.accepted s.turn.pick = some src ∧ initiate src.vec s.pc (some src.prio) s.afterTurn = .next t) ∨
    ∃ i u, fetch s.afterTurn = .ok (i, u) ∧ exec i u = .next t ∧ (i = .rti ∨ ∃ low, i = .reserved low) := by
  obtain ⟨_, ⟨k, _, resumed⟩ | ⟨_, src, accepted, entered⟩ | ⟨_, _, i, u, fetched, performed⟩⟩ := step_cases round
  · exact absurd (awaitKey_mode resumed) changed
  · exact .inl ⟨src, accepted, entered⟩
  · have psr : u.psr = s.afterTurn.psr := fetch_psr fetched
    have mode : u.psr.mode = s.psr.mode := congrArg Psr.mode psr
    have changed_by_exec : t.psr.mode ≠ u.psr.mode := by rwa [mode]
    exact .inr ⟨i, u, fetched, performed, rti_or_reserved_of_mode_changed performed changed_by_exec⟩

/-- Settles O52: the calls and jumps are neither RTI nor the reserved opcode. -/
theorem privilegeModeChangers : Obligations.PrivilegeModeChangers := by
  refine ⟨fun _ _ _ => exec_changes_mode, fun _ _ => step_changes_mode, fun i s t performed call => ?_,
    fun _ _ _ _ _ => initiate_mode, fun _ => rfl⟩
  obtain ⟨v, rfl⟩ | ⟨v, named⟩ | ⟨off, rfl⟩ | ⟨base, rfl⟩ | ⟨base, rfl⟩ | rfl := call
  case inr.inl => exact exec_mode ((exec_of_mem_namedTraps named s).symm.trans performed) nofun nofun
  all_goals exact exec_mode performed nofun nofun

end Sys2Proof.Machine
end

section
/-! SUPPORT. Proofs about spec/60_exceptions.md, the entries (R174 to R181) and which interrupt is accepted (R183,
R184): an initiation is its state `entering`, two pushes from there and the table read. -/

namespace Sys2Proof.Machine

variable {s t u : State} {vec : BitVec 8} {saved : Word} {prio : Option (BitVec 3)}

/-! ## RTI in User mode (R174) -/

theorem exec_rti_of_user (user : s.psr.mode = .user) :
    exec .rti s = initiate s.cfg.vecPriv s.savedByException none s := by
  rw [exec_rti_eq_raise user, raise, exceptionPc_eq_savedByException]

/-- Settles O34: the violation is an initiation, which completes where its frame and its entry are ordinary. -/
theorem rtiInUserModeTakesTheViolation : Obligations.RtiInUserModeTakesTheViolation := by
  intro s user enters
  rw [exec_rti_of_user user]
  exact initiate_ordinary s.cfg.vecPriv s.savedByException none enters

/-! ## The accesses of an entry (R176, D21) -/

/-- The state of the first push: the mode, the priority level and the stack pointer are those of the routine. -/
def State.entering (s : State) (prio : Option (BitVec 3)) : State :=
  (enterSupervisor prio (switchToSupervisorStack s)).setReg .r6 (s.ssp - 1#16)

theorem entering_r6 (s : State) (prio : Option (BitVec 3)) : (s.entering prio).reg .r6 = s.ssp - 1#16 := by
  simp [State.entering]

theorem entering_otherRegs (s : State) (prio : Option (BitVec 3)) : SameRegsBut [.r6] s (s.entering prio) := by
  obtain ⟨others, _⟩ := switchToSupervisorStack_frame (s := s)
  intro r hr
  have ne : r ≠ .r6 := by simpa using hr
  simpa [State.entering, enterSupervisor, ne] using others r hr

theorem entering_psr (s : State) (prio : Option (BitVec 3)) :
    (s.entering prio).psr = { s.psr with mode := .supervisor, pl := prio.getD s.psr.pl } := by
  simp [State.entering, enterSupervisor]

/-- The first push is made in the state `entering`, the rest from where it leads. -/
theorem initiate_eq_withWrite : initiate vec saved prio s =
    withWrite (s.ssp - 1#16) s.psr.toWord (s.entering prio) fun u =>
      push saved u fun w => withRead (vectorEntry vec) w fun v x => .next (x.setPc v) := by
  have r6 : (enterSupervisor prio (switchToSupervisorStack s)).reg .r6 = s.ssp := switchToSupervisorStack_r6
  rw [initiate, push, r6]
  rfl

/-- The second push is made one location below the first. -/
theorem push_after_first {k : State → Result}
    (written : memWrite (s.ssp - 1#16) s.psr.toWord (s.entering prio) = .ok u) :
    push saved u k = withWrite (s.ssp - 2#16) saved (u.setReg .r6 (s.ssp - 2#16)) k := by
  obtain ⟨regs, _⟩ := memWrite_frame written
  have r6 : u.reg .r6 = s.ssp - 1#16 := (congrArg (Regs.get · .r6) regs).trans (entering_r6 s prio)
  have two : s.ssp - 1#16 - 1#16 = s.ssp - 2#16 := by bv_omega
  rw [push, r6, two]

/-- Settles O60: each clause follows one access of the initiation, answered or refused. -/
theorem entriesMakeOrdinaryAccesses : Obligations.EntriesMakeOrdinaryAccesses := by
  refine ⟨fun _ => exec_rti_of_user, exec_reserved, fun _ _ => step_of_accepted, fun vec saved prio s => ?_⟩
  obtain ⟨_, pc, _, ssp, usp, mem, dev, model⟩ := switchToSupervisorStack_frame (s := s)
  have psr := entering_psr s prio
  refine ⟨s.entering prio, entering_r6 s prio, entering_otherRegs s prio, pc, congrArg Psr.mode psr,
    congrArg Psr.pl psr, by simp [SameFlags, psr], ssp, usp, mem, dev, model, ?_⟩
  rw [initiate_eq_withWrite]
  refine ⟨fun r refused => withWrite_of_error refused, fun u first => ?_⟩
  rw [withWrite_of_ok first, push_after_first first]
  refine ⟨fun r refused => withWrite_of_error refused, fun w second => ?_⟩
  rw [withWrite_of_ok second]
  exact ⟨fun r refused => withRead_of_error refused, fun v x read => withRead_of_ok read⟩

/-! ## RTI after an entry (R180) -/

/-- RTI with its two words in ordinary memory. -/
theorem exec_rti_ordinary (supervisor : s.psr.mode = .supervisor) (pc_ordinary : s.ordinary (s.reg .r6) = true)
    (psr_ordinary : s.ordinary (s.reg .r6 + 1#16) = true) : exec .rti s =
      .next (restored (s.reg .r6) (s.peek (s.reg .r6)) (s.peek (s.reg .r6 + 1#16)) s) := by
  rw [exec_rti_of_supervisor supervisor, returnFromInterrupt_of_read (memRead_ordinary pc_ordinary)]
  exact withRead_of_ok (memRead_ordinary psr_ordinary)

/-- The frame is popped as it was pushed. -/
theorem exec_rti_of_entered {pl : BitVec 3} (enters : s.canEnter vec = true) (entered : Entered vec saved pl s t) :
    exec .rti t = .next (restored (s.ssp - 2#16) saved s.psr.toWord t) := by
  obtain ⟨psr_word, pc_word, _, r6, _, supervisor, _, _, _, _, _, _, cfg, _⟩ := entered
  simp only [State.canEnter, Bool.and_eq_true] at enters
  obtain ⟨⟨upper, lower⟩, _⟩ := enters
  have ordinary (a : Word) : t.ordinary a = s.ordinary a := by simp only [State.ordinary, cfg]
  have next : s.ssp - 2#16 + 1#16 = s.ssp - 1#16 := by bv_omega
  have completes := exec_rti_ordinary supervisor (by rw [ordinary, r6, lower]) (by rw [ordinary, r6, next, upper])
  rwa [r6, next, psr_word, pc_word] at completes

/-- The exchange of the stack pointers on the way out undoes that on the way in (D7). -/
theorem restored_stackPointers {pl : BitVec 3} (entered : Entered vec saved pl s t) :
    (restored (s.ssp - 2#16) saved s.psr.toWord t).savedSsp = s.savedSsp ∧
      (restored (s.ssp - 2#16) saved s.psr.toWord t).reg .r6 = s.reg .r6 := by
  obtain ⟨_, _, _, _, _, _, _, _, ssp, usp, _⟩ := entered
  have back : s.ssp - 2#16 + 2#16 = s.ssp := BitVec.sub_add_cancel _ _
  have restored_psr := Psr.ofWord_toWord s.psr
  cases mode : s.psr.mode with
  | user =>
    obtain ⟨ssp', r6'⟩ := restored_of_user (x := t) (sp := s.ssp - 2#16) (pc := saved) (restored_psr ▸ mode)
    rw [ssp', r6', back, usp, if_pos mode]
    simp [State.ssp, mode]
  | supervisor =>
    obtain ⟨ssp', r6'⟩ := restored_of_supervisor (x := t) (sp := s.ssp - 2#16) (pc := saved) (restored_psr ▸ mode)
    rw [ssp', r6', back, ssp]
    simp [State.ssp, mode]

/-- Settles O38: an initiation that completes has `Entered`, and RTI pops its frame and exchanges the stack pointers. -/
theorem rtiUndoesInitiation : Obligations.RtiUndoesInitiation := by
  intro vec saved prio s t enters initiated
  obtain ⟨t', completes, entered⟩ := initiate_ordinary vec saved prio enters
  cases initiated.symm.trans completes
  obtain ⟨ssp, r6⟩ := restored_stackPointers entered
  refine ⟨_, exec_rti_of_entered enters entered, ?_⟩
  obtain ⟨_, _, memory, _, others, _, _, _, _, usp, _, dev, cfg, schedule, free, waiting⟩ := entered
  obtain ⟨others', pc, psr, usp', mem', dev', cfg', schedule', free', waiting'⟩ :=
    restored_frame (s.ssp - 2#16) saved s.psr.toWord t
  refine ⟨pc, psr.trans (Psr.ofWord_toWord s.psr), fun r _ => ?_, ssp, usp'.trans usp, fun a ha => ?_, dev'.trans dev,
    cfg'.trans cfg, schedule'.trans schedule, free'.trans free, waiting'.trans waiting⟩
  · by_cases is_r6 : r = .r6
    · rw [is_r6, r6]
    · have other : r ∉ [Reg.r6] := by simpa using is_r6
      exact (others' r other).trans (others r other)
  · exact (congrArg (Memory.read · a) mem').trans (memory a ha)

/-! ## Which interrupt is accepted (R183, R184) -/

/-- Above the running priority, the highest candidates are the highest of all that request. -/
theorem mem_highest_iff {src : IntSource} : src ∈ s.highest ↔
    src ∈ sources s.cfg ∧ requestHolds s src.request = true ∧ s.psr.pl < src.prio ∧
      ∀ other ∈ sources s.cfg, requestHolds s other.request = true → other.prio ≤ src.prio := by
  rw [mem_highest]
  constructor
  · rintro ⟨⟨listed, requests, above⟩, top⟩
    refine ⟨listed, requests, above, fun other other_listed other_requests => ?_⟩
    by_cases other_above : s.psr.pl < other.prio
    · exact top other other_listed other_requests other_above
    · exact BitVec.le_trans (BitVec.not_lt.1 other_above) (BitVec.le_of_lt above)
  · rintro ⟨listed, requests, above, top⟩
    exact ⟨⟨listed, requests, above⟩, fun other other_listed other_requests _ => top other other_listed other_requests⟩

theorem candidates_eq_nil_iff : s.candidates = [] ↔
    ∀ src ∈ sources s.cfg, requestHolds s src.request = true → src.prio ≤ s.psr.pl := by
  simp [State.candidates, List.filter_eq_nil_iff]

/-- Where there is a candidate there is one of the highest priority. -/
theorem highest_eq_nil_iff : s.highest = [] ↔ s.candidates = [] := by
  constructor
  · intro none_highest
    cases maximal : s.candidates.argmax (fun src => src.prio.toNat) with
    | none => exact List.argmax_eq_none.1 maximal
    | some top =>
      have top_highest : top ∈ s.highest := by
        simp only [State.highest, List.mem_filter, List.all_eq_true, decide_eq_true_eq]
        exact ⟨List.argmax_mem maximal, fun other listed => List.le_of_mem_argmax listed maximal⟩
      simp [none_highest] at top_highest
  · intro none_candidate
    simp [State.highest, none_candidate]

/-- Settles O36: the source accepted is one of the highest candidates, chosen by the number. -/
theorem interruptAcceptanceRule : Obligations.InterruptAcceptanceRule := by
  intro s
  refine ⟨fun pick => ?_, fun pick src accepted => mem_highest_iff.1 (mem_of_choose accepted),
    fun src listed requests above top => exists_choose (mem_highest_iff.2 ⟨listed, requests, above, top⟩)⟩
  exact choose_eq_none.trans (highest_eq_nil_iff.trans candidates_eq_nil_iff)

end Sys2Proof.Machine
end

section
/-! SUPPORT. Proofs about spec/60_exceptions.md, the devices (R190 to R196): the ready bits seen by a load, the
display's output stream and its ready bit. -/

namespace Sys2Proof.Machine

variable {s t : State} {a v w : Word} {dr : Reg} {off : BitVec 9}

/-! ## Polling (R190) -/

/-- LDI through an ordinary pointer to a location whose read has no side effect. -/
theorem exec_ldi_pure (pointer : s.ordinary (pcRelative s off) = true) (points : s.peek (pcRelative s off) = a)
    (read : memRead a s = .ok (v, s)) : exec (.ldi dr off) s = .next (s.setResult dr v) := by
  subst points
  exact (exec_ldi_of_read (memRead_ordinary pointer)).trans (loadFrom_of_read read)

theorem msb_kbsrWord (s : State) : (kbsrWord s).msb = s.dev.kbsrReady := by
  unfold kbsrWord
  cases s.dev.kbsrReady <;> cases s.dev.kbsrEnable && s.cfg.kbdInterrupt <;> rfl

theorem msb_dsrWord (s : State) : (dsrWord s).msb = s.dev.dsrReady := by
  unfold dsrWord
  cases s.dev.dsrReady <;> rfl

/-- Settles O28: N is the top bit of the word loaded, which is the ready bit. -/
theorem pollingShowsTheReadyBitInN : Obligations.PollingShowsTheReadyBitInN := fun _ _ s pointer =>
  ⟨fun points => ⟨_, exec_ldi_pure pointer points rfl, msb_kbsrWord s⟩,
    fun points => ⟨_, exec_ldi_pure pointer points rfl, msb_dsrWord s⟩⟩

/-! ## The output stream (R195, R196) -/

theorem memRead_display (read : memRead a s = .ok (v, t)) : t.dev.display = s.dev.display := by
  obtain rfl | rfl | rfl := memRead_cases read <;> rfl

/-- A write leaves the stream alone, but for one to DDR, which appends its character. -/
theorem memWrite_display (written : memWrite a v s = .ok t) :
    ∃ shown, t.dev.display = s.dev.display ++ shown := by
  obtain ⟨_, _, rfl⟩ | ⟨_, rfl⟩ | ⟨_, _, rfl⟩ | ⟨_, rfl⟩ | ⟨_, rfl⟩ := memWrite_cases written
  · exact ⟨_, rfl⟩
  all_goals exact ⟨[], (List.append_nil _).symm⟩

/-- The display's output stream begins with these characters. -/
def DisplayBegins (start : List Byte) (s : State) : Prop := ∃ shown, s.dev.display = start ++ shown

theorem DisplayBegins.extend {start : List Byte} (hs : DisplayBegins start s)
    (grown : ∃ shown, t.dev.display = s.dev.display ++ shown) : DisplayBegins start t := by
  obtain ⟨before, hs⟩ := hs
  obtain ⟨after, grown⟩ := grown
  exact ⟨before ++ after, by rw [grown, hs, List.append_assoc]⟩

theorem afterTurn_display (s : State) : s.afterTurn.dev.display = s.dev.display := by
  obtain ⟨_, _, _, _, dev⟩ := afterTurn_dev s
  rw [dev]
  rfl

theorem DisplayBegins.of_display_eq {start : List Byte} (hs : DisplayBegins start s)
    (same : t.dev.display = s.dev.display) : DisplayBegins start t :=
  hs.extend ⟨[], by rw [same, List.append_nil]⟩

theorem closedUnderOps_displayBegins (start : List Byte) : ClosedUnderOps (DisplayBegins start) where
  setReg _ _ hs := hs
  setPc _ hs := hs
  setPsr _ hs := hs
  setSavedSsp _ hs := hs
  setSavedUsp _ hs := hs
  memRead hs read := hs.of_display_eq (memRead_display read)
  memWrite hs written := hs.extend (memWrite_display written)
  emit text hs := hs.extend ⟨text, rfl⟩
  afterService hs := hs
  startWaiting _ hs _ := hs
  stopWaiting hs := hs
  afterTurn {s} hs := hs.of_display_eq (afterTurn_display s)

/-- Settles O57: every operation leaves what was shown as the beginning of the stream, so every round does. -/
theorem displayStreamOnlyGrows : Obligations.DisplayStreamOnlyGrows := fun s t round =>
  (closedUnderOps_displayBegins s.dev.display).step ⟨[], (List.append_nil _).symm⟩ t round

/-! ## The display's ready bit (R196) -/

/-- A turn past the schedule's end makes the display ready. -/
theorem afterTurn_dsrReady (used_up : s.schedule = []) : s.afterTurn.dev.dsrReady = true := by
  obtain ⟨_, _, _, _, dev⟩ := afterTurn_dev s
  rw [dev]
  simp [Devices.afterTyping, State.turn, used_up, lastingTurn]

/-- Settles O59, by induction on the schedule: a turn takes its head, and the turn after the last makes the display
ready. -/
theorem displayBecomesReady : Obligations.DisplayBecomesReady := by
  intro s
  induction rest : s.schedule generalizing s with
  | nil => exact afterTurn_dsrReady rest
  | cons turn turns ih =>
    have next : s.afterTurn.schedule = turns := by simp [State.afterTurn, rest]
    exact ih s.afterTurn next

end Sys2Proof.Machine
end
